-- ==== Sys2Proof/Word.lean ====
section
/-! DEFINITION. The widths of spec/00_scope.md R8 and spec/30_encoding.md R81: a byte and a host command word. -/

namespace Sys2Proof

/-- One byte: a plane byte, an operand latch, a byte on the bus. Bit 7 is the most significant (R8). -/
abbrev Byte := BitVec 8

/-- One host command word, format H (R81). -/
abbrev Word := BitVec 32

end Sys2Proof
end

