-- ==== Sys2Proof/Syntax.lean ====
section
/-! DEFINITION. The colors of spec/43_pixel_surface.md R180 and the instructions: one constructor for each row of
spec/opcode_table.json, four host operations (format H) and eleven panel commands (format P). -/

namespace Sys2Proof

/-- "an enumerated value with exactly three variants: White, Black, Red" (R180). -/
inductive Color where
  | white
  | black
  | red
  deriving DecidableEq, Repr

/-- The instructions. WRPIX carries its three operand fields as the command word has them (R81); no other row has an
operand (R140, R160, R186, R111 to R121). -/
inductive Instr where
  | init
  | wrpix (color y x : Byte)
  | refresh
  | size
  | powerSetting
  | boosterSoftStart
  | powerOn
  | panelSetting
  | vcomDataInterval
  | pllControl
  | vcomDcSetting
  | resolutionSetting
  | dataStart1
  | dataStart2
  | displayRefresh
  deriving DecidableEq, Repr

end Sys2Proof
end

