-- ==== Sys2Proof/Decode.lean ====
section
/-! DEFINITION. The two decoders and the encoder of spec/30_encoding.md: format H (R81, R82, R88), the host command
word, and format P (R86, R87), the opcode byte of a panel command. Both decoders are total and reject by name. -/

namespace Sys2Proof

/-- `OP`, bits 31:24 (R81). -/
def opField (w : Word) : Byte := w.extractLsb' 24 8

/-- `COLOR`, bits 23:16 (R81). -/
def colorField (w : Word) : Byte := w.extractLsb' 16 8

/-- `Y`, bits 15:8 (R81). -/
def yField (w : Word) : Byte := w.extractLsb' 8 8

/-- `X`, bits 7:0 (R81). -/
def xField (w : Word) : Byte := w.extractLsb' 0 8

/-- "bits 23:0" are all zero (R88). -/
def reservedZero (w : Word) : Bool := w.extractLsb' 0 24 == 0#24

/-- The host operation codes of R82. -/
def HostOp.init : Byte := 0x01#8
/-- The host operation code of WRPIX (R82). -/
def HostOp.wrpix : Byte := 0x02#8
/-- The host operation code of REFRESH (R82). -/
def HostOp.refresh : Byte := 0x03#8
/-- The host operation code of SIZE (R82). -/
def HostOp.size : Byte := 0x04#8

/-- The panel opcodes of R87. -/
def Opcode.panelSetting : Byte := 0x00#8
/-- R87, R111. -/
def Opcode.powerSetting : Byte := 0x01#8
/-- R87, R113. -/
def Opcode.powerOn : Byte := 0x04#8
/-- R87, R112. -/
def Opcode.boosterSoftStart : Byte := 0x06#8
/-- R87, R119. -/
def Opcode.dataStart1 : Byte := 0x10#8
/-- R87, R121. -/
def Opcode.displayRefresh : Byte := 0x12#8
/-- R87, R120. -/
def Opcode.dataStart2 : Byte := 0x13#8
/-- R87, R116. -/
def Opcode.pllControl : Byte := 0x30#8
/-- R87, R115. -/
def Opcode.vcomDataInterval : Byte := 0x50#8
/-- R87, R118. -/
def Opcode.resolutionSetting : Byte := 0x61#8
/-- R87, R117. -/
def Opcode.vcomDcSetting : Byte := 0x82#8

/-- Why a decoder refuses. -/
inductive DecodeError where
  /-- No host operation has this code, or a reserved bit is set (R88). -/
  | illegalOperation
  /-- None of the eleven opcodes of R87 (R89). -/
  | unknownPanelOpcode
  deriving DecidableEq, Repr

/-- Format H. WRPIX takes every value of its fields: a bad color code or coordinate is not a matter of decoding the
operation, it is checked after NotReady (R220). -/
def decodeHost (w : Word) : Except DecodeError Instr :=
  if opField w = HostOp.wrpix then .ok (.wrpix (colorField w) (yField w) (xField w))
  else if reservedZero w then
    if opField w = HostOp.init then .ok .init
    else if opField w = HostOp.refresh then .ok .refresh
    else if opField w = HostOp.size then .ok .size
    else .error .illegalOperation
  else .error .illegalOperation

/-- Format P: "match = the opcode, mask = `0xFF`" (R87). -/
def decodePanel (b : Byte) : Except DecodeError Instr :=
  if b = Opcode.panelSetting then .ok .panelSetting
  else if b = Opcode.powerSetting then .ok .powerSetting
  else if b = Opcode.powerOn then .ok .powerOn
  else if b = Opcode.boosterSoftStart then .ok .boosterSoftStart
  else if b = Opcode.dataStart1 then .ok .dataStart1
  else if b = Opcode.displayRefresh then .ok .displayRefresh
  else if b = Opcode.dataStart2 then .ok .dataStart2
  else if b = Opcode.pllControl then .ok .pllControl
  else if b = Opcode.vcomDataInterval then .ok .vcomDataInterval
  else if b = Opcode.resolutionSetting then .ok .resolutionSetting
  else if b = Opcode.vcomDcSetting then .ok .vcomDcSetting
  else .error .unknownPanelOpcode

/-- What an instruction is encoded to: a host command word, or the opcode byte of a panel command frame. -/
inductive Encoding where
  | host (w : Word)
  | panel (b : Byte)
  deriving DecidableEq, Repr

/-- A host command word from its four fields, `OP` first (R81). -/
def hostWord (op color y x : Byte) : Word := op ++ color ++ y ++ x

/-- The encoder, from the tables of R82 and R87. -/
def encode : Instr → Encoding
  | .init => .host (hostWord HostOp.init 0#8 0#8 0#8)
  | .wrpix color y x => .host (hostWord HostOp.wrpix color y x)
  | .refresh => .host (hostWord HostOp.refresh 0#8 0#8 0#8)
  | .size => .host (hostWord HostOp.size 0#8 0#8 0#8)
  | .powerSetting => .panel Opcode.powerSetting
  | .boosterSoftStart => .panel Opcode.boosterSoftStart
  | .powerOn => .panel Opcode.powerOn
  | .panelSetting => .panel Opcode.panelSetting
  | .vcomDataInterval => .panel Opcode.vcomDataInterval
  | .pllControl => .panel Opcode.pllControl
  | .vcomDcSetting => .panel Opcode.vcomDcSetting
  | .resolutionSetting => .panel Opcode.resolutionSetting
  | .dataStart1 => .panel Opcode.dataStart1
  | .dataStart2 => .panel Opcode.dataStart2
  | .displayRefresh => .panel Opcode.displayRefresh

/-- Decoding of an encoding of either format. -/
def decode : Encoding → Except DecodeError Instr
  | .host w => decodeHost w
  | .panel b => decodePanel b

/-- How many bits the format of an encoding has (R81, R87). -/
def Encoding.bits : Encoding → Nat
  | .host _ => 32
  | .panel _ => 8

/-- The bits of an encoding as a number, bit 0 least significant (R8). -/
def Encoding.number : Encoding → Nat
  | .host w => w.toNat
  | .panel b => b.toNat

/-- The instruction the decoder reads from `nbits` bits numbered as spec/opcode_table.json numbers them: 32 bits are a
host command word, 8 bits the opcode byte of a panel command; the block has no other format (R80). -/
def decodeTableWord (nbits w : Nat) : Option Instr :=
  if nbits = 32 then (decodeHost (BitVec.ofNat 32 w)).toOption
  else if nbits = 8 then (decodePanel (BitVec.ofNat 8 w)).toOption
  else none

end Sys2Proof
end

