-- ==== Sys2Proof/Config.lean ====
section
/-! DEFINITION. The fixed parameters of spec/00_scope.md R6, and the open parameters and free values of R7 and
spec/10_state.md R35: constants with no body, so that no proof can lean on a value of them. -/

namespace Sys2Proof

/-- A level is low (`0`) or high (`1`) (R8). -/
inductive Level where
  | low
  | high
  deriving DecidableEq, Repr, Inhabited

/-- The environment's answer to one bus write (R9 `Write`). -/
inductive BusAnswer where
  | ok
  | fail
  deriving DecidableEq, Repr, Inhabited

/-- The environment's answer to one sample of the busy line (R9 `Sample`). -/
inductive BusyAnswer where
  | high
  | low
  | fail
  deriving DecidableEq, Repr, Inhabited

namespace Config

/-- `WIDTH` (R6). -/
def width : Nat := 152

/-- `HEIGHT` (R6). -/
def height : Nat := 152

/-- `PLANE_BYTES` (R6): 2888. -/
def planeBytes : Nat := width * height / 8

/-- `ROW_BYTES` (R6): 19. -/
def rowBytes : Nat := width / 8

/-- `PIXELS` (R6): 23104. -/
def pixels : Nat := width * height

/-- `T_RESET_MS` (R6). -/
def resetMs : Nat := 100

/-- `T_POWERON_MS` (R6). -/
def powerOnMs : Nat := 100

/-- `T_SETTLE_MS` (R6). -/
def settleMs : Nat := 10

/-- What every plane byte holds after block reset (R37), and so what an unlisted byte reads as. -/
def blank : Byte := 0xFF#8

/-- `BUSY_READ_FALLIBLE` (R7, OPEN): whether a sample of the busy line can fail at all (log 10). -/
opaque busyReadFallible : Bool

/-- `BUS_WRITE_RESULT` (R7): the environment's answer to the write that makes draw `n`, free (log 9). -/
opaque busAnswer : Nat → BusAnswer

/-- The level of the busy line at the sample that makes draw `n`, free (U4; log 9). -/
opaque busyLevel : Nat → Level

/-- Whether the sample that makes draw `n` could not be taken, free (U4; log 9). -/
opaque busyReadFails : Nat → Bool

/-- The answer to one sample: `fail` is in the answer set only when samples are fallible (R7, R9). -/
def sampleAnswer (fallible fails : Bool) (level : Level) : BusyAnswer :=
  if fallible && fails then .fail
  else match level with
    | .high => .high
    | .low => .low

/-- The environment's answer to the sample that makes draw `n`. -/
def busyAnswer (n : Nat) : BusyAnswer :=
  sampleAnswer busyReadFallible (busyReadFails n) (busyLevel n)

end Config

end Sys2Proof
end

