-- ==== Sys2Proof/Machine/State.lean ====
section
/-! DEFINITION. The state of the block: everything spec/10_state.md R20 lists, and the block's inputs and outputs (the
host port, the reset input, the responses) as plain data; the faults and refusals; the state after block reset (R37). -/

namespace Sys2Proof.Machine

/-- A plane (R21, R22): the bytes that differ from the reset contents `0xFF` (R37), addresses strictly rising. -/
abbrev Memory := List Host.Cell

/-- The three output lines (R26). -/
inductive Line where
  | rst
  | cs
  | dc
  deriving DecidableEq, Repr

/-- An output line register: "`0`, `1`, or 'not yet driven'" (R26). -/
inductive LineReg where
  | notYetDriven
  | driven (l : Level)
  deriving DecidableEq, Repr

/-- The lifecycle flag (R30). -/
inductive Life where
  | uninit
  | ready
  deriving DecidableEq, Repr

/-- The sequencer state, the block's program counter (R28). -/
inductive Sequencer where
  /-- No operation in progress. -/
  | idle
  /-- The next primitive action is number `k` of the INIT action list (R143). -/
  | init (k : Fin 51)
  /-- The next primitive action is number `k` of the REFRESH action list (R161). -/
  | rfsh (k : Fin 16)
  /-- The next action is a busy sample (R162). -/
  | poll
  /-- A fatal BusyReadFailure has happened (R213). -/
  | halt
  deriving DecidableEq, Repr

/-- An event of the trace (R36). -/
inductive Event where
  | line (which : Line) (l : Level)
  | write (bytes : List Byte)
  | delay (ms : Nat)
  | busy (a : BusyAnswer)
  deriving DecidableEq, Repr

/-- A response, format R (R84). -/
structure Response where
  status : BitVec 8
  w : BitVec 16
  h : BitVec 16
  deriving DecidableEq, Repr

/-- The causes of R210. -/
inductive Cause where
  | transportWriteFailure
  | busyReadFailure
  | invalidColorEncoding
  | outOfRange
  | illegalOperation
  | illegalColorCode
  | notReady
  deriving DecidableEq, Repr

/-- The state. The first twelve fields are R20's list; the last four are the model's own (log 3, 4, 9, 13). -/
structure State where
  /-- The black plane (R21). -/
  black : Memory
  /-- The red plane (R22). -/
  red : Memory
  /-- RST, active low (R26). -/
  rst : LineReg
  /-- CS, active low (R26). -/
  cs : LineReg
  /-- DC, low for a command byte, high for data (R26). -/
  dc : LineReg
  /-- The lifecycle flag (R30). -/
  life : Life
  /-- The sequencer state (R28). -/
  seq : Sequencer
  /-- The operand latch OP (R27). -/
  op : Byte
  /-- The operand latch COLOR (R27). -/
  color : Byte
  /-- The operand latch Y (R27). -/
  y : Byte
  /-- The operand latch X (R27). -/
  x : Byte
  /-- The ghost trace, oldest event first (R36). -/
  trace : List Event
  /-- Input: the command words the host presents, in order; the head is on the port (R85; log 3). -/
  hostWords : List Word
  /-- Input: the block's own reset input (R37, R251; log 4). -/
  resetPin : Bool
  /-- Output: the responses given since block reset, oldest first (R84; log 13). -/
  responses : List Response
  /-- How many answers of the environment have been drawn: the index of the next free value (R35; log 9). -/
  draws : Nat
  deriving DecidableEq, Repr

/-- Why a step ends in a fault. -/
inductive Fault where
  /-- Raised by `step` in `seq = HALT`: "`HALT` ... nothing further is ever done" (R28, R213). Safe: the spec gives
  the block no action there, and only block reset leaves it (log 6). -/
  | halted
  /-- Raised by the plane accesses at a byte index above 2887: "Nothing else is addressable" (R57). Safe; WRPIX checks
  its coordinates first (R184), so no step raises it (log 16). -/
  | planeAddress
  deriving DecidableEq, Repr

/-- Why an instruction is refused. No step answers one of these. -/
inductive Refusal where
  /-- Raised by an arm of `exec` whose instruction has no meaning yet; no arm is left so. Safe. -/
  | notModelled (mnemonic : String)
  /-- Raised by the meaning of a host operation that is asked for while another operation runs or the block has halted:
  "While `seq ≠ IDLE` the block accepts no host request" (R29). Safe (log 2). -/
  | notAccepted
  /-- Raised by the meaning of a panel command outside its frame in the action lists: the block issues it nowhere else
  (R87, R89) and "The host cannot issue a panel command of its own" (R223). Safe (log 2). -/
  | notIssued
  deriving DecidableEq, Repr

/-- Right after block reset (R37). The latches are unspecified there: zero is DESIGN CHOICE (log 7). -/
def State.reset : State where
  black := []
  red := []
  rst := .notYetDriven
  cs := .notYetDriven
  dc := .notYetDriven
  life := .uninit
  seq := .idle
  op := 0#8
  color := 0#8
  y := 0#8
  x := 0#8
  trace := []
  hostWords := []
  resetPin := false
  responses := []
  draws := 0

end Sys2Proof.Machine
end

