-- ==== Sys2Proof/Machine/Ops.lean ====
section
/-! DEFINITION. The named operations over the planes, the lines, the bus and the host port: the primitives of
spec/00_scope.md R9; taking an exception and leaving it (spec/60_exceptions.md R210 to R222, spec/70_reset_and_hazards.md
R250); the command envelope, the action lists and the sequencer (R110, R143, R161, R28); the busy sample (R163). -/

namespace Sys2Proof.Machine

/-! ### Plane memory (R57, R37) -/

/-- The byte at an address: an unlisted byte holds the reset contents (R37). -/
def Memory.read : Memory → Nat → Byte
  | [], _ => Config.blank
  | (k, v) :: rest, a => if k = a then v else Memory.read rest a

/-- A listed byte put before `rest`, unless it equals the reset contents. -/
def Memory.put (a : Nat) (v : Byte) (rest : Memory) : Memory :=
  if v = Config.blank then rest else (a, v) :: rest

/-- The memory with the byte at `a` set to `v`, in canonical form. -/
def Memory.write (a : Nat) (v : Byte) : Memory → Memory
  | [] => Memory.put a v []
  | (k, b) :: rest =>
    if a < k then Memory.put a v ((k, b) :: rest)
    else if a = k then Memory.put a v rest
    else (k, b) :: Memory.write a v rest

/-- Canonical from address `low` up: addresses rising and inside the plane, no byte equal to the reset contents. -/
def Memory.wfFrom (low : Nat) : Memory → Bool
  | [] => true
  | (k, v) :: rest =>
    decide (low ≤ k) && decide (k < Config.planeBytes) && decide (v ≠ Config.blank) && Memory.wfFrom (k + 1) rest

/-- The canonical form of a plane. -/
def Memory.wf (m : Memory) : Bool := Memory.wfFrom 0 m

/-- `black[i]`, `red[i]` (R9): nothing above byte 2887 is addressable (R57). -/
def Memory.load (m : Memory) (a : Nat) : Option Byte :=
  if a < Config.planeBytes then some (m.read a) else none

/-- `black[i] <- v`, `red[i] <- v` (R9), with the same bound (R57). -/
def Memory.store (m : Memory) (a : Nat) (v : Byte) : Option Memory :=
  if a < Config.planeBytes then some (m.write a v) else none

/-- `n` bytes in ascending address from `a`. -/
def Memory.bytesFrom (m : Memory) (a : Nat) : Nat → List Byte
  | 0 => []
  | n + 1 => m.read a :: Memory.bytesFrom m (a + 1) n

/-- The whole plane, "plane byte 0 first, plane byte 2887 last" (R52). -/
def Memory.bytes (m : Memory) : List Byte := m.bytesFrom 0 Config.planeBytes

/-! ### Lines, bus, delay, trace (R9, R26, R36) -/

/-- The level register of a line. -/
def State.lineReg (s : State) : Line → LineReg
  | .rst => s.rst
  | .cs => s.cs
  | .dc => s.dc

/-- Sets the register of a line. -/
def State.setLine (s : State) (which : Line) (l : Level) : State :=
  match which with
  | .rst => { s with rst := .driven l }
  | .cs => { s with cs := .driven l }
  | .dc => { s with dc := .driven l }

/-- Appends one event to the trace (R36). -/
def State.log (s : State) (e : Event) : State := { s with trace := s.trace ++ [e] }

/-- `L <- l`: sets the register and records the event, "also when the register already holds `l`" (R26). -/
def State.drive (s : State) (which : Line) (l : Level) : State := (s.setLine which l).log (.line which l)

/-- Draws one answer of the environment (R35; log 9). -/
def State.draw (s : State) : State := { s with draws := s.draws + 1 }

/-- `Write(bytes)` with the environment's answer: "every `fail` answer is discarded" (R9, R144, R211). -/
def State.busWrite (s : State) (bytes : List Byte) (_answer : BusAnswer) : State := (s.draw).log (.write bytes)

/-- `Delay(ms)` (R9). -/
def State.delay (s : State) (ms : Nat) : State := s.log (.delay ms)

/-! ### The host port (R27, R84) and exceptions (R210 to R222) -/

/-- Accepting a request copies the word's four fields into the latches (R27). -/
def State.accept (s : State) (op color y x : Byte) : State := { s with op := op, color := color, y := y, x := x }

/-- `respond(status, w, h)` (R9, R84). -/
def State.respond (s : State) (status : BitVec 8) (w h : BitVec 16) : State :=
  { s with responses := s.responses ++ [⟨status, w, h⟩] }

/-- `seq <- q` (R9). -/
def State.goto (s : State) (q : Sequencer) : State := { s with seq := q }

/-- The cause codes (R210). -/
def Cause.code : Cause → BitVec 8
  | .transportWriteFailure => 1#8
  | .busyReadFailure => 2#8
  | .invalidColorEncoding => 3#8
  | .outOfRange => 4#8
  | .illegalOperation => 5#8
  | .illegalColorCode => 6#8
  | .notReady => 7#8

/-- Taking an exception, whatever the cause (R210). Cause 1 is absorbed (R211). Cause 2 answers the pending REFRESH and
halts the block (R213). Cause 3 is the failing result of a decode and touches no state (R214; log 14). Causes 4 to 7
answer the request and leave no other mark (R221). -/
def State.raise (s : State) (c : Cause) : State :=
  match c with
  | .transportWriteFailure => s
  | .busyReadFailure => (s.respond c.code 0#16 0#16).goto .halt
  | .invalidColorEncoding => s
  | .outOfRange => s.respond c.code 0#16 0#16
  | .illegalOperation => s.respond c.code 0#16 0#16
  | .illegalColorCode => s.respond c.code 0#16 0#16
  | .notReady => s.respond c.code 0#16 0#16

/-- Block reset, the only way out of `HALT` (R213, R222, R250): every piece of the block's state at its reset value, no
primitive action. The host's words that wait and the count of the environment's answers are not the block's (log 4).
DESIGN CHOICE: the word of an operation that the reset cuts short gets no response (log 25). -/
def State.blockReset (s : State) : State :=
  { State.reset with hostWords := s.hostWords, draws := s.draws }

/-- The platform raises the block's reset input (R251; log 4). -/
def State.assertReset (s : State) : State := { s with resetPin := true }

/-- The word on the port is taken off it; `ws` waits (R85). -/
def State.pop (s : State) (ws : List Word) : State := { s with hostWords := ws }

/-- The host presents a further word, after those that wait (R14, R29; log 3). -/
def State.present (s : State) (w : Word) : State := { s with hostWords := s.hostWords ++ [w] }

/-! ### The command envelope and the action lists (R110, R142, R161) -/

/-- The primitive actions the action lists are made of (R9). -/
inductive Action where
  | drive (which : Line) (l : Level)
  | write (bytes : List Byte)
  | delay (ms : Nat)
  deriving DecidableEq, Repr

/-- One primitive action, with the environment's next answer when it is a write. -/
def State.perform (s : State) : Action → State
  | .drive which l => s.drive which l
  | .write bytes => s.busWrite bytes (Config.busAnswer s.draws)
  | .delay ms => s.delay ms

/-- The data phase of the envelope, only for a payload that is not empty (R110). -/
def dataPhase : List Byte → List Action
  | [] => []
  | b :: bs => [.drive .dc .high, .write (b :: bs)]

/-- `CMD(c, p)` (R110): select, command phase, data phase if any, deselect. -/
def cmdActions (c : Byte) (p : List Byte) : List Action :=
  [.drive .cs .low, .drive .dc .low, .write [c]] ++ (dataPhase p ++ [.drive .cs .high])

/-- The sequencer after the action it stands at (R28); the last action of INIT also ends the operation (R145). -/
def State.advance (s : State) : State :=
  match s.seq with
  | .init k =>
    if h : k.val + 1 < 51 then s.goto (.init ⟨k.val + 1, h⟩)
    else ({ s with life := .ready }.goto .idle).respond 0#8 0#16 0#16
  | .rfsh k =>
    if h : k.val + 1 < 16 then s.goto (.rfsh ⟨k.val + 1, h⟩)
    else s.goto .poll
  | .idle => s
  | .poll => s
  | .halt => s

/-- One primitive action and the sequencer moved past it (R28). -/
def State.act (s : State) (a : Action) : State := (s.perform a).advance

/-- How many actions past the place `first` of an action list the place `q` of the same list stands. -/
def Sequencer.offset (first q : Sequencer) : Option Nat :=
  match first, q with
  | .init a, .init k => if a.val ≤ k.val then some (k.val - a.val) else none
  | .rfsh a, .rfsh k => if a.val ≤ k.val then some (k.val - a.val) else none
  | _, _ => none

/-- A panel command whose frame begins at the place `first` of an action list: the next primitive action of `CMD(c, p)`
(R110). The block issues it nowhere else (R89, R223). -/
def issueCmd (first : Sequencer) (c : Byte) (p : List Byte) (s : State) : Host.Outcome State Fault Refusal :=
  match (first.offset s.seq).bind fun j => (cmdActions c p)[j]? with
  | some a => .next (s.act a)
  | none => .refused .notIssued

/-! ### The busy-wait synchronizer (R162, R163) -/

/-- What one answered sample does (R163). -/
def State.sampled (s : State) (a : BusyAnswer) : State :=
  let t := (s.draw).log (.busy a)
  match a with
  | .high => t
  | .low => (t.respond 0#8 0#16 0#16).goto .idle
  | .fail => t.raise .busyReadFailure

end Sys2Proof.Machine
end

