-- ==== Sys2Proof/Machine/Operands.lean ====
section
/-! DEFINITION. The operand forms: the host color code (spec/30_encoding.md R83), the color encoder and decoder
(spec/43_pixel_surface.md R181, R182), the coordinate mapping (R183), one pixel's bit in a plane byte (R184), the payloads
of the panel commands (R87, R91) and the two action lists made of them (R142, R160). -/

namespace Sys2Proof.Machine

/-! ### Colors -/

/-- The color coded by the host field COLOR; every other value is an illegal color code (R83). -/
def colorOfCode (c : Byte) : Option Color :=
  if c = 0x00#8 then some .white
  else if c = 0x01#8 then some .black
  else if c = 0x02#8 then some .red
  else none

/-- `black_bit(c)` (R181). -/
def blackBit : Color → BitVec 1
  | .white => 1#1
  | .black => 0#1
  | .red => 1#1

/-- `red_bit(c)` (R181). -/
def redBit : Color → BitVec 1
  | .white => 1#1
  | .black => 1#1
  | .red => 0#1

/-- `DecodeColor(b, r)` from a black-plane bit and a red-plane bit (R182). -/
def decodeColor (b r : BitVec 1) : Except Cause Color :=
  if b = 1#1 then (if r = 1#1 then .ok .white else .ok .red)
  else if r = 1#1 then .ok .black
  else .error .invalidColorEncoding

/-! ### Coordinates (R183, R191: exact arithmetic on naturals) -/

/-- `PixelIndex(x, y) = 152 * y + x` (R183). -/
def pixelIndex (x y : Nat) : Nat := Config.width * y + x

/-- `ByteIndex(x, y)` (R183), the one addressing mode (R192). -/
def byteIndex (x y : Nat) : Nat := pixelIndex x y / 8

/-- `BitOffset(x, y)`, MSB first (R183). -/
def bitOffset (x y : Nat) : Nat := 7 - pixelIndex x y % 8

/-- `Mask(x, y)` for the bit offset `k` (R183). -/
def mask (k : Nat) : Byte := 1#8 <<< k

/-- Clear bit `k`, then OR in `bit` shifted to `k`: `(v & ~m) | (bit << k)` (R184). -/
def putBit (v : Byte) (k : Nat) (bit : BitVec 1) : Byte := (v &&& ~~~(mask k)) ||| (bit.setWidth 8 <<< k)

/-- Bit `k` of a plane byte. -/
def bitAt (v : Byte) (k : Nat) : BitVec 1 := v.extractLsb' k 1

/-- The read-modify-write of one plane byte (R54, R192). -/
def plot (m : Memory) (i k : Nat) (bit : BitVec 1) : Option Memory :=
  (m.load i).bind fun v => m.store i (putBit v k bit)

/-- `PixelAt(x, y)` (R182): a function for stating properties of the planes; no operation calls it (R182). -/
def State.pixelAt (s : State) (x y : Nat) : Except Cause Color :=
  decodeColor (bitAt (s.black.read (byteIndex x y)) (bitOffset x y)) (bitAt (s.red.read (byteIndex x y)) (bitOffset x y))

/-- `x >= 152 or y >= 152`, each on its own (R53, R184). -/
def outOfRange (x y : Byte) : Bool := decide (Config.width ≤ x.toNat) || decide (Config.height ≤ y.toNat)

/-! ### Payloads of the panel commands (R87) -/

/-- R111. -/
def powerSettingPayload : List Byte := [0x03#8, 0x00#8, 0x2B#8, 0x2B#8, 0x09#8]
/-- R112. -/
def boosterSoftStartPayload : List Byte := [0x17#8, 0x17#8, 0x17#8]
/-- R114. -/
def panelSettingPayload : List Byte := [0xCF#8]
/-- R115. -/
def vcomDataIntervalPayload : List Byte := [0x37#8]
/-- R116. -/
def pllControlPayload : List Byte := [0x29#8]
/-- R117. -/
def vcomDcSettingPayload : List Byte := [0x0A#8]

/-- A width as one byte, a height as two bytes, high byte first (R91). -/
def resolutionBytes (w h : Nat) : List Byte :=
  [BitVec.ofNat 8 w, BitVec.ofNat 8 (h / 256), BitVec.ofNat 8 (h % 256)]

/-- `[WIDTH[7:0], HEIGHT[15:8], HEIGHT[7:0]]` (R91, R118). -/
def resolutionPayload : List Byte := resolutionBytes Config.width Config.height

/-! ### The action lists -/

/-- The eleven steps of INIT (R142), each CMD expanded: 51 actions (R143). -/
def initActions : List Action :=
  [.drive .rst .low, .delay Config.resetMs, .drive .rst .high]
  ++ (cmdActions Opcode.powerSetting powerSettingPayload
  ++ (cmdActions Opcode.boosterSoftStart boosterSoftStartPayload
  ++ (cmdActions Opcode.powerOn []
  ++ ([.delay Config.powerOnMs]
  ++ (cmdActions Opcode.panelSetting panelSettingPayload
  ++ (cmdActions Opcode.vcomDataInterval vcomDataIntervalPayload
  ++ (cmdActions Opcode.pllControl pllControlPayload
  ++ (cmdActions Opcode.vcomDcSetting vcomDcSettingPayload
  ++ ([.delay Config.settleMs]
  ++ cmdActions Opcode.resolutionSetting resolutionPayload)))))))))

/-- The three commands of REFRESH, each CMD expanded: 16 actions, the planes as they stand (R160, R161; log 20). -/
def refreshActions (s : State) : List Action :=
  cmdActions Opcode.dataStart1 s.black.bytes
  ++ (cmdActions Opcode.dataStart2 s.red.bytes
  ++ cmdActions Opcode.displayRefresh [])

/-- "Expanding every CMD ... gives 51 primitive actions" (R143). -/
theorem initActions_length : initActions.length = 51 := rfl

/-- A whole plane is not an empty payload: it has its data phase. -/
theorem dataPhase_bytes_length (m : Memory) : (dataPhase m.bytes).length = 2 := rfl

/-- "gives 16 primitive actions" (R161), whatever the planes hold. -/
theorem refreshActions_length (s : State) : (refreshActions s).length = 16 := by
  simp only [refreshActions, cmdActions, List.length_append, dataPhase_bytes_length]
  rfl

/-- Action `k` of the INIT list (R143). -/
def initAction (k : Fin 51) : Action :=
  initActions[k.val]'(Nat.lt_of_lt_of_eq k.isLt initActions_length.symm)

/-- Action `k` of the REFRESH list (R161), the planes as they stand. -/
def refreshAction (s : State) (k : Fin 16) : Action :=
  (refreshActions s)[k.val]'(Nat.lt_of_lt_of_eq k.isLt (refreshActions_length s).symm)

end Sys2Proof.Machine
end

