-- ==== Sys2Proof/Machine/Panel.lean ====
section
/-! DEFINITION. The eleven panel commands (spec/40_command_envelope.md R111 to R121): each is `CMD(c, p)` (R110), begun at
its one place in an action list (R143, R161) and performed one primitive action at a time (log 1, log 2). -/

namespace Sys2Proof.Machine

/-- Where each panel command's frame begins: "Issued only as step 2 of INIT" and so on (R111 to R121, R143, R161). -/
def FrameStart.powerSetting : Sequencer := .init 3
/-- Step 3 of INIT (R112). -/
def FrameStart.boosterSoftStart : Sequencer := .init 9
/-- Step 4 of INIT (R113). -/
def FrameStart.powerOn : Sequencer := .init 15
/-- Step 6 of INIT (R114). -/
def FrameStart.panelSetting : Sequencer := .init 20
/-- Step 7 of INIT (R115). -/
def FrameStart.vcomDataInterval : Sequencer := .init 26
/-- Step 8 of INIT (R116). -/
def FrameStart.pllControl : Sequencer := .init 32
/-- Step 9 of INIT (R117). -/
def FrameStart.vcomDcSetting : Sequencer := .init 38
/-- Step 11 of INIT (R118). -/
def FrameStart.resolutionSetting : Sequencer := .init 45
/-- The first command of REFRESH (R119). -/
def FrameStart.dataStart1 : Sequencer := .rfsh 0
/-- The second command of REFRESH (R120). -/
def FrameStart.dataStart2 : Sequencer := .rfsh 6
/-- The third command of REFRESH (R121). -/
def FrameStart.displayRefresh : Sequencer := .rfsh 12

/-- `CMD(0x01, [0x03, 0x00, 0x2B, 0x2B, 0x09])` (R111). -/
def execPowerSetting (s : State) : Host.Outcome State Fault Refusal :=
  issueCmd FrameStart.powerSetting Opcode.powerSetting powerSettingPayload s

/-- `CMD(0x06, [0x17, 0x17, 0x17])` (R112). -/
def execBoosterSoftStart (s : State) : Host.Outcome State Fault Refusal :=
  issueCmd FrameStart.boosterSoftStart Opcode.boosterSoftStart boosterSoftStartPayload s

/-- `CMD(0x04, [])` (R113). -/
def execPowerOn (s : State) : Host.Outcome State Fault Refusal :=
  issueCmd FrameStart.powerOn Opcode.powerOn [] s

/-- `CMD(0x00, [0xCF])` (R114). -/
def execPanelSetting (s : State) : Host.Outcome State Fault Refusal :=
  issueCmd FrameStart.panelSetting Opcode.panelSetting panelSettingPayload s

/-- `CMD(0x50, [0x37])` (R115). -/
def execVcomDataInterval (s : State) : Host.Outcome State Fault Refusal :=
  issueCmd FrameStart.vcomDataInterval Opcode.vcomDataInterval vcomDataIntervalPayload s

/-- `CMD(0x30, [0x29])` (R116). -/
def execPllControl (s : State) : Host.Outcome State Fault Refusal :=
  issueCmd FrameStart.pllControl Opcode.pllControl pllControlPayload s

/-- `CMD(0x82, [0x0A])` (R117). -/
def execVcomDcSetting (s : State) : Host.Outcome State Fault Refusal :=
  issueCmd FrameStart.vcomDcSetting Opcode.vcomDcSetting vcomDcSettingPayload s

/-- `CMD(0x61, [0x98, 0x00, 0x98])` (R118). -/
def execResolutionSetting (s : State) : Host.Outcome State Fault Refusal :=
  issueCmd FrameStart.resolutionSetting Opcode.resolutionSetting resolutionPayload s

/-- `CMD(0x10, black[0..2887])` (R119). -/
def execDataStart1 (s : State) : Host.Outcome State Fault Refusal :=
  issueCmd FrameStart.dataStart1 Opcode.dataStart1 s.black.bytes s

/-- `CMD(0x13, red[0..2887])` (R120). -/
def execDataStart2 (s : State) : Host.Outcome State Fault Refusal :=
  issueCmd FrameStart.dataStart2 Opcode.dataStart2 s.red.bytes s

/-- `CMD(0x12, [])` (R121). -/
def execDisplayRefresh (s : State) : Host.Outcome State Fault Refusal :=
  issueCmd FrameStart.displayRefresh Opcode.displayRefresh [] s

end Sys2Proof.Machine
end

