-- ==== Sys2Proof/Machine/Flags.lean ====
section
/-! DEFINITION. The flags. The block has no condition flag and no operation writes one as a side effect
(spec/10_state.md R31); it has the lifecycle flag (R30), the fault flag (R31) and the host port's ready (R85), the last
two defined from the sequencer state. -/

namespace Sys2Proof.Machine

/-- "`fault` is not a separate bit: it is defined as `seq = HALT`" (R31). -/
def State.faulted (s : State) : Bool := s.seq == .halt

/-- `cmd_ready`, "high only when `seq = IDLE`" (R85). -/
def State.cmdReady (s : State) : Bool := s.seq == .idle

/-- Whether the lifecycle flag allows an operation that needs `need` (R218). -/
def State.lifeIs (s : State) (need : Life) : Bool := s.life == need

/-- The check (2) of R220: an operation that needs `need` runs `run`, or NotReady is raised (R218). -/
def State.ifLife (s : State) (need : Life) (run : Host.Outcome State Fault Refusal) :
    Host.Outcome State Fault Refusal :=
  if s.lifeIs need then run else .next (s.raise .notReady)

end Sys2Proof.Machine
end

