-- ==== Sys2Proof/Machine/Surface.lean ====
section
/-! DEFINITION. The two host operations of the pixel surface, each one atomic step from IDLE (spec/10_state.md R28):
WRPIX (spec/43_pixel_surface.md R184) and SIZE (R186). -/

namespace Sys2Proof.Machine

/-- The two plane updates of WRPIX, black before red (R54), and the response. -/
def paint (c : Color) (x y : Nat) (s : State) : Host.Outcome State Fault Refusal :=
  match plot s.black (byteIndex x y) (bitOffset x y) (blackBit c) with
  | none => .fault .planeAddress
  | some newBlack =>
    match plot s.red (byteIndex x y) (bitOffset x y) (redBit c) with
    | none => .fault .planeAddress
    | some newRed => .next ({ s with black := newBlack, red := newRed }.respond 0#8 0#16 0#16)

/-- WRPIX on the latches: the checks (3) and (4) of R220, then the plane updates. -/
def writePixel (s : State) : Host.Outcome State Fault Refusal :=
  match colorOfCode s.color with
  | none => .next (s.raise .illegalColorCode)
  | some c =>
    if outOfRange s.x s.y then .next (s.raise .outOfRange)
    else paint c s.x.toNat s.y.toNat s

/-- WRPIX (R184). -/
def execWrpix (color y x : Byte) (s : State) : Host.Outcome State Fault Refusal :=
  match s.seq with
  | .idle =>
    let t := s.accept HostOp.wrpix color y x
    t.ifLife .ready (writePixel t)
  | .init _ => .refused .notAccepted
  | .rfsh _ => .refused .notAccepted
  | .poll => .refused .notAccepted
  | .halt => .refused .notAccepted

/-- SIZE (R186): "respond(0, 152, 152)". -/
def execSize (s : State) : Host.Outcome State Fault Refusal :=
  match s.seq with
  | .idle =>
    let t := s.accept HostOp.size 0#8 0#8 0#8
    t.ifLife .ready (.next (t.respond 0#8 (BitVec.ofNat 16 Config.width) (BitVec.ofNat 16 Config.height)))
  | .init _ => .refused .notAccepted
  | .rfsh _ => .refused .notAccepted
  | .poll => .refused .notAccepted
  | .halt => .refused .notAccepted

end Sys2Proof.Machine
end

