-- ==== Sys2Proof/Machine/Transport.lean ====
section
/-! DEFINITION. The two host operations that take many steps: INIT (spec/41_initialize.md R140) and REFRESH
(spec/42_refresh_busywait.md R160). A meaning performs the operation's next step at the sequencer's position: the
acceptance from IDLE, then one primitive action at a time (R28; log 1). -/

namespace Sys2Proof.Machine

/-- INIT. From IDLE: the check of R147, then `seq <- INIT(0)`. In `INIT(k)`: action `k`; after the last, `life <- READY`,
`seq <- IDLE` and the response `(0, 0, 0)` (R145). -/
def execInit (s : State) : Host.Outcome State Fault Refusal :=
  match s.seq with
  | .idle =>
    let t := s.accept HostOp.init 0#8 0#8 0#8
    t.ifLife .uninit (.next (t.goto (.init 0)))
  | .init k => .next (s.act (initAction k))
  | .rfsh _ => .refused .notAccepted
  | .poll => .refused .notAccepted
  | .halt => .refused .notAccepted

/-- REFRESH. From IDLE: the check of R169, then `seq <- RFSH(0)`. In `RFSH(k)`: action `k`; after the last,
`seq <- POLL`. In POLL: one sample of the busy line, answered by the environment (R162, R163). -/
def execRefresh (s : State) : Host.Outcome State Fault Refusal :=
  match s.seq with
  | .idle =>
    let t := s.accept HostOp.refresh 0#8 0#8 0#8
    t.ifLife .ready (.next (t.goto (.rfsh 0)))
  | .rfsh k => .next (s.act (refreshAction s k))
  | .poll => .next (s.sampled (Config.busyAnswer s.draws))
  | .init _ => .refused .notAccepted
  | .halt => .refused .notAccepted

end Sys2Proof.Machine
end

