-- ==== Sys2Proof/Machine/Dispatch.lean ====
section
/-! DEFINITION. One arm per instruction: its meaning. -/

namespace Sys2Proof.Machine

def exec (i : Instr) (s : State) : Host.Outcome State Fault Refusal :=
  match i with
  | .init => Sys2Proof.Machine.execInit s
  | .wrpix color y x => Sys2Proof.Machine.execWrpix color y x s
  | .refresh => Sys2Proof.Machine.execRefresh s
  | .size => Sys2Proof.Machine.execSize s
  | .powerSetting => Sys2Proof.Machine.execPowerSetting s
  | .boosterSoftStart => Sys2Proof.Machine.execBoosterSoftStart s
  | .powerOn => Sys2Proof.Machine.execPowerOn s
  | .panelSetting => Sys2Proof.Machine.execPanelSetting s
  | .vcomDataInterval => Sys2Proof.Machine.execVcomDataInterval s
  | .pllControl => Sys2Proof.Machine.execPllControl s
  | .vcomDcSetting => Sys2Proof.Machine.execVcomDcSetting s
  | .resolutionSetting => Sys2Proof.Machine.execResolutionSetting s
  | .dataStart1 => Sys2Proof.Machine.execDataStart1 s
  | .dataStart2 => Sys2Proof.Machine.execDataStart2 s
  | .displayRefresh => Sys2Proof.Machine.execDisplayRefresh s

end Sys2Proof.Machine
end

