-- ==== Sys2Proof/Machine/Fetch.lean ====
section
/-! DEFINITION. What the block runs next (spec/10_state.md R28, R29): in IDLE the word on the host port, decoded by format
H; inside a frame of an action list the panel command whose opcode byte stands there, decoded by format P; between
frames the operation in progress; in HALT nothing. -/

namespace Sys2Proof.Machine

/-- The next thing to do. -/
inductive Fetched where
  /-- Run an instruction at a state. -/
  | run (i : Instr) (s : State)
  /-- The step is done: nothing to run, or a word refused before any operation. -/
  | settled (s : State)
  /-- Nothing is ever done (R213). -/
  | stopped (f : Fault)
  deriving DecidableEq, Repr

/-- The frames of the two action lists, in order: opcode byte, place of the first action, number of actions (R143, R161;
6 actions with a payload, 4 without, R110). -/
def frames : List (Byte × Sequencer × Nat) :=
  [(Opcode.powerSetting, FrameStart.powerSetting, 6),
   (Opcode.boosterSoftStart, FrameStart.boosterSoftStart, 6),
   (Opcode.powerOn, FrameStart.powerOn, 4),
   (Opcode.panelSetting, FrameStart.panelSetting, 6),
   (Opcode.vcomDataInterval, FrameStart.vcomDataInterval, 6),
   (Opcode.pllControl, FrameStart.pllControl, 6),
   (Opcode.vcomDcSetting, FrameStart.vcomDcSetting, 6),
   (Opcode.resolutionSetting, FrameStart.resolutionSetting, 6),
   (Opcode.dataStart1, FrameStart.dataStart1, 6),
   (Opcode.dataStart2, FrameStart.dataStart2, 6),
   (Opcode.displayRefresh, FrameStart.displayRefresh, 4)]

/-- Whether the place `q` lies in the frame that begins at `first` and has `n` actions. -/
def inFrame (first : Sequencer) (n : Nat) (q : Sequencer) : Bool :=
  match first.offset q with
  | some j => decide (j < n)
  | none => false

/-- The opcode byte of the frame in which the place `q` lies, if it lies in one. -/
def issuedOpcode (q : Sequencer) : Option Byte :=
  (frames.find? fun f => inFrame f.2.1 f.2.2 q).map Prod.fst

/-- The place at which the frame of an opcode byte begins. -/
def frameOf (b : Byte) : Option Sequencer :=
  (frames.find? fun f => f.1 == b).map fun f => f.2.1

/-- The panel command in progress at the place `q`, or `owner`, the host operation in progress. -/
def current (owner : Instr) (q : Sequencer) : Instr :=
  match issuedOpcode q with
  | none => owner
  | some b =>
    match decodePanel b with
    | .ok i => i
    | .error _ => owner

/-- The host word `w` taken off the port: an instruction to run, or IllegalOperation, which like every accepted word
fills the latches (R27, R216; log 8). -/
def takeWord (w : Word) (s : State) : Fetched :=
  match decodeHost w with
  | .ok i => .run i s
  | .error _ => .settled ((s.accept (opField w) (colorField w) (yField w) (xField w)).raise .illegalOperation)

/-- What the block does next. In IDLE with no word on the port it waits: "after block reset the block waits in `IDLE` for
a host request" (R37; log 5). -/
def fetch (s : State) : Fetched :=
  match s.seq with
  | .idle =>
    match s.hostWords with
    | [] => .settled s
    | w :: ws => takeWord w (s.pop ws)
  | .init _ => .run (current .init s.seq) s
  | .rfsh _ => .run (current .refresh s.seq) s
  | .poll => .run .refresh s
  | .halt => .stopped .halted

/-- `s` with the host word `w` on the port and the sequencer ready for it. -/
def State.withHostWord (s : State) (w : Word) : State :=
  { s with resetPin := false, seq := .idle, hostWords := w :: s.hostWords }

/-- `s` with the sequencer at the first action of the frame of the opcode byte `b`, if the block has such a frame. -/
def State.withFrame (s : State) (b : Byte) : State :=
  match frameOf b with
  | some q => { s with resetPin := false, seq := q }
  | none => s

end Sys2Proof.Machine
end

