-- ==== Sys2Proof/Machine/Step.lean ====
section
/-! DEFINITION. One step of the block (spec/10_state.md R28): the block reset if its input is raised (R250), else what
`fetch` finds. -/

namespace Sys2Proof.Machine

/-- One step. -/
def step (s : State) : Host.Outcome State Fault Refusal :=
  if s.resetPin then .next s.blockReset
  else
    match fetch s with
    | .run i t => exec i t
    | .settled t => .next t
    | .stopped f => .fault f

/-- The instruction of `nbits` bits `w`, placed so that the very next step runs it (log 18): a host word on the port of an
idle block, or the sequencer at the panel command's frame. -/
def State.withFetchWord (s : State) (nbits w : Nat) : State :=
  if nbits = 32 then s.withHostWord (BitVec.ofNat 32 w)
  else if nbits = 8 then s.withFrame (BitVec.ofNat 8 w)
  else s

end Sys2Proof.Machine
end

