-- ==== Sys2Proof/Safety.lean ====
section
/-! DEFINITION. The terms the claims use: what counts as the end of a run (spec/00_scope.md R15), the states a run
reaches, an instruction performed several times over, a busy-wait under given answers, the events of the action lists,
what a receiver reads off the trace (R93), and the invariants. -/

namespace Sys2Proof.Machine

/-! ### Runs -/

/-- "The run has ended correctly when every presented word has had its response and `seq = IDLE`" (R15).
DESIGN CHOICE: nor has a run ended while the reset input is raised and not yet taken, which R15 leaves open (log 24). -/
def State.endedCorrectly (s : State) : Bool := s.hostWords.isEmpty && s.seq == .idle && !s.resetPin

/-- The states of the runs from block reset, the host and the platform acting between any two steps (R10, R14). -/
inductive Reachable : State → Prop where
  | reset : Reachable State.reset
  | step {s t : State} : Reachable s → Machine.step s = .next t → Reachable t
  | present {s : State} (w : Word) : Reachable s → Reachable (s.present w)
  | assertReset {s : State} : Reachable s → Reachable s.assertReset

/-- `n` steps of the block, stopping at the first fault. -/
def stepTimes : Nat → State → Host.Outcome State Fault Refusal
  | 0, s => .next s
  | n + 1, s =>
    match Machine.step s with
    | .next t => stepTimes n t
    | .fault f => .fault f
    | .refused r => .refused r

/-- The instruction `i` performed `n` times over, as long as it answers a next state. -/
def execTimes (i : Instr) : Nat → State → Host.Outcome State Fault Refusal
  | 0, s => .next s
  | n + 1, s =>
    match exec i s with
    | .next t => execTimes i n t
    | .fault f => .fault f
    | .refused r => .refused r

/-- The busy-wait when the environment gives these answers: each is used by one sample as long as the block polls. -/
def State.polled (s : State) : List BusyAnswer → State
  | [] => s
  | a :: rest => if s.seq = .poll then (s.sampled a).polled rest else s

/-! ### Events -/

/-- The event of a primitive action (R36). -/
def Action.event : Action → Event
  | .drive which l => .line which l
  | .write bytes => .write bytes
  | .delay ms => .delay ms

/-- The events of a whole INIT (R143). -/
def initEvents : List Event := initActions.map Action.event

/-- The `Line` and `Write` events of a whole REFRESH with the planes of `s` (R161). -/
def refreshEvents (s : State) : List Event := (refreshActions s).map Action.event

/-- The command transactions a receiver reads off a trace: opcode and payload of every complete frame (R86, R93). -/
def transactions : List Event → List (Byte × List Byte)
  | .line .cs .low :: .line .dc .low :: .write [c] :: .line .dc .high :: .write p :: .line .cs .high :: rest =>
    (c, p) :: transactions rest
  | .line .cs .low :: .line .dc .low :: .write [c] :: .line .cs .high :: rest => (c, []) :: transactions rest
  | _ :: rest => transactions rest
  | [] => []

/-- The delay requests of a trace, in milliseconds. -/
def delays : List Event → List Nat
  | .delay ms :: rest => ms :: delays rest
  | _ :: rest => delays rest
  | [] => []

/-- A line register after some events (R26). -/
def lineAfter (which : Line) (start : LineReg) : List Event → LineReg
  | [] => start
  | .line w l :: rest => lineAfter which (if w = which then .driven l else start) rest
  | _ :: rest => lineAfter which start rest

/-! ### Invariants -/

/-- The lifecycle flag fits the sequencer: INIT runs only before the instance exists, REFRESH only after (R147, R169). -/
def State.lifeFits (s : State) : Prop :=
  match s.seq with
  | .idle => True
  | .init _ => s.life = .uninit
  | .rfsh _ => s.life = .ready
  | .poll => s.life = .ready
  | .halt => s.life = .ready

/-- What holds of the planes: canonical form, no pixel at the reserved pair (R23), all ones until INIT has completed
(R38). -/
structure PlanesInv (s : State) : Prop where
  blackWf : s.black.wf = true
  redWf : s.red.wf = true
  pixels : ∀ x y : Nat, x < Config.width → y < Config.height → ∃ c, s.pixelAt x y = .ok c
  fits : s.lifeFits
  blankBefore : s.life = .uninit → s.black = [] ∧ s.red = []

/-- What holds of the three line registers, by the place of the sequencer (R26, R122, R141, R145, R213, R252). -/
structure LinesInv (s : State) : Prop where
  fits : s.lifeFits
  before : s.seq = .idle → s.life = .uninit → ∀ which, s.lineReg which = .notYetDriven
  between : s.seq = .idle → s.life = .ready → s.rst = .driven .high ∧ s.cs = .driven .high ∧ s.dc ≠ .notYetDriven
  inInit : ∀ k, s.seq = .init k → ∀ which, s.lineReg which = lineAfter which .notYetDriven (initEvents.take k.val)
  inRefresh : ∀ k, s.seq = .rfsh k → s.rst = .driven .high ∧
    s.cs = lineAfter .cs (.driven .high) ((refreshEvents s).take k.val) ∧
    ∃ l, s.dc = lineAfter .dc (.driven l) ((refreshEvents s).take k.val)
  waiting : s.seq = .poll ∨ s.seq = .halt → s.rst = .driven .high ∧ s.cs = .driven .high ∧ s.dc = .driven .low

/-- What holds of the trace, by the place of the sequencer: nothing before INIT (R37), the INIT list up to the place
(R143), the whole of it once INIT has completed (R38); in REFRESH its list up to the place (R161), then only samples that
answered `high` (R162), and at last, in HALT, the one that failed (R213). -/
structure TraceInv (s : State) : Prop where
  fits : s.lifeFits
  before : s.seq = .idle → s.life = .uninit → s.trace = []
  inInit : ∀ k, s.seq = .init k → s.trace = initEvents.take k.val
  after : s.life = .ready → initEvents <+: s.trace
  inRefresh : ∀ k, s.seq = .rfsh k → ∃ earlier, s.trace = earlier ++ (refreshEvents s).take k.val
  polling : s.seq = .poll → ∃ earlier n, s.trace = earlier ++ refreshEvents s ++ List.replicate n (.busy .high)
  halted : s.seq = .halt →
    ∃ earlier n, s.trace = earlier ++ refreshEvents s ++ List.replicate n (.busy .high) ++ [.busy .fail]

end Sys2Proof.Machine
end

