-- ==== Sys2Proof/WellFormed.lean ====
section
/-! DEFINITION. Which instructions are legal requests: the host's duty of spec/00_scope.md R14 for WRPIX (a color code
of R83, a coordinate of R53 and R261). Every value of the three fields can be encoded and every instruction runs: an
illegal request is answered by the block with its cause (log 23). -/

namespace Sys2Proof

/-- "`COLOR = 0x00` is White, `0x01` is Black, `0x02` is Red ... Every other value is an illegal color code" (R83). -/
def legalColor (c : Byte) : Bool := c.toNat < 3

/-- "0 ≤ x < width" (R53). -/
def legalColumn (x : Byte) : Bool := x.toNat < Config.width

/-- "0 ≤ y < height" (R53). -/
def legalRow (y : Byte) : Bool := y.toNat < Config.height

/-- A legal request. -/
def Instr.wellFormed : Instr → Bool
  | .wrpix color y x => legalColor color && legalRow y && legalColumn x
  | .init => true
  | .refresh => true
  | .size => true
  | .powerSetting => true
  | .boosterSoftStart => true
  | .powerOn => true
  | .panelSetting => true
  | .vcomDataInterval => true
  | .pllControl => true
  | .vcomDcSetting => true
  | .resolutionSetting => true
  | .dataStart1 => true
  | .dataStart2 => true
  | .displayRefresh => true

end Sys2Proof
end

