-- ==== Sys2Proof/Certificates/Slice0/Obligations.lean ====
section
/-! DEFINITION. The statements for the provers. `Sys2Proof.Claims` holds what they are written with: the tables of the
spec written out a second time, from the spec and not from the model's definitions. -/

namespace Sys2Proof.Claims

open Sys2Proof.Machine

/-- One command envelope as events (spec/30_encoding.md R86): without a payload there is no data phase. -/
def envelope (c : Byte) : List Byte → List Event
  | [] => [.line .cs .low, .line .dc .low, .write [c], .line .cs .high]
  | b :: bs => [.line .cs .low, .line .dc .low, .write [c], .line .dc .high, .write (b :: bs), .line .cs .high]

/-- The level DC has after an envelope (R122). -/
def dcAfterFrame : List Byte → Level
  | [] => .low
  | _ :: _ => .high

/-- The number of writes in an envelope (R110). -/
def writesInFrame : List Byte → Nat
  | [] => 1
  | _ :: _ => 2

/-- A plane as a byte sequence, "byte 0 first, plane byte 2887 last" (R52). -/
def planeList (m : Memory) : List Byte := (List.range 2888).map m.read

/-- What one event means for the state (R26, R36): the line takes the level, a write or a sample draws one answer of the
environment, and the event is recorded. -/
def after (e : Event) (s : State) : State :=
  match e with
  | .line .rst l => { s with rst := .driven l, trace := s.trace ++ [e] }
  | .line .cs l => { s with cs := .driven l, trace := s.trace ++ [e] }
  | .line .dc l => { s with dc := .driven l, trace := s.trace ++ [e] }
  | .write _ => { s with draws := s.draws + 1, trace := s.trace ++ [e] }
  | .delay _ => { s with trace := s.trace ++ [e] }
  | .busy _ => { s with draws := s.draws + 1, trace := s.trace ++ [e] }

/-- The sequencer past action `k` of INIT; past the last one INIT has completed (R28, R145). -/
def initNext (k : Fin 51) (s : State) : State :=
  if h : k.val < 50 then { s with seq := .init ⟨k.val + 1, by omega⟩ }
  else { s with life := .ready, seq := .idle, responses := s.responses ++ [⟨0#8, 0#16, 0#16⟩] }

/-- The sequencer past action `k` of REFRESH; past the last one the block polls (R28, R161). -/
def refreshNext (k : Fin 16) (s : State) : State :=
  if h : k.val < 15 then { s with seq := .rfsh ⟨k.val + 1, by omega⟩ } else { s with seq := .poll }

/-- The first column of R143's table, actions 0 to 16. -/
def initTableLeft : List Event :=
  [.line .rst .low, .delay 100, .line .rst .high,
   .line .cs .low, .line .dc .low, .write [0x01#8], .line .dc .high,
   .write [0x03#8, 0x00#8, 0x2B#8, 0x2B#8, 0x09#8], .line .cs .high,
   .line .cs .low, .line .dc .low, .write [0x06#8], .line .dc .high, .write [0x17#8, 0x17#8, 0x17#8], .line .cs .high,
   .line .cs .low, .line .dc .low]

/-- The second column, actions 17 to 33. -/
def initTableMiddle : List Event :=
  [.write [0x04#8], .line .cs .high, .delay 100,
   .line .cs .low, .line .dc .low, .write [0x00#8], .line .dc .high, .write [0xCF#8], .line .cs .high,
   .line .cs .low, .line .dc .low, .write [0x50#8], .line .dc .high, .write [0x37#8], .line .cs .high,
   .line .cs .low, .line .dc .low]

/-- The third column, actions 34 to 50. -/
def initTableRight : List Event :=
  [.write [0x30#8], .line .dc .high, .write [0x29#8], .line .cs .high,
   .line .cs .low, .line .dc .low, .write [0x82#8], .line .dc .high, .write [0x0A#8], .line .cs .high, .delay 10,
   .line .cs .low, .line .dc .low, .write [0x61#8], .line .dc .high, .write [0x98#8, 0x00#8, 0x98#8], .line .cs .high]

/-- The table of R143. -/
def initTable : List Event := initTableLeft ++ initTableMiddle ++ initTableRight

/-- The table of R161 with the planes of `s`. -/
def refreshTable (s : State) : List Event :=
  [.line .cs .low, .line .dc .low, .write [0x10#8], .line .dc .high, .write (planeList s.black), .line .cs .high,
   .line .cs .low, .line .dc .low, .write [0x13#8], .line .dc .high, .write (planeList s.red), .line .cs .high,
   .line .cs .low, .line .dc .low, .write [0x12#8], .line .cs .high]

/-- The eight commands of INIT: instruction, place of the frame's first action, opcode, payload (R87, R142, R143). -/
def initCommands : List (Instr × Nat × Byte × List Byte) :=
  [(.powerSetting, 3, 0x01#8, [0x03#8, 0x00#8, 0x2B#8, 0x2B#8, 0x09#8]),
   (.boosterSoftStart, 9, 0x06#8, [0x17#8, 0x17#8, 0x17#8]),
   (.powerOn, 15, 0x04#8, []),
   (.panelSetting, 20, 0x00#8, [0xCF#8]),
   (.vcomDataInterval, 26, 0x50#8, [0x37#8]),
   (.pllControl, 32, 0x30#8, [0x29#8]),
   (.vcomDcSetting, 38, 0x82#8, [0x0A#8]),
   (.resolutionSetting, 45, 0x61#8, [0x98#8, 0x00#8, 0x98#8])]

/-- The three commands of REFRESH with the planes of `s` (R87, R161). -/
def refreshCommands (s : State) : List (Instr × Nat × Byte × List Byte) :=
  [(.dataStart1, 0, 0x10#8, planeList s.black),
   (.dataStart2, 6, 0x13#8, planeList s.red),
   (.displayRefresh, 12, 0x12#8, [])]

/-- `s` with one more response. -/
def responded (s : State) (status : BitVec 8) (w h : BitVec 16) : State :=
  { s with responses := s.responses ++ [⟨status, w, h⟩] }

/-- `s` with the latches of `t`: what the acceptance of a word leaves in them is a statement of its own (R27). -/
def withLatchesOf (s t : State) : State := { s with op := t.op, color := t.color, y := t.y, x := t.x }

/-- The pair (black bit, red bit) of a host color code (R83, R181). -/
def pairOfCode (c : Byte) : Option (BitVec 1 × BitVec 1) :=
  if c.toNat = 0 then some (1#1, 1#1)
  else if c.toNat = 1 then some (0#1, 1#1)
  else if c.toNat = 2 then some (1#1, 0#1)
  else none

/-- The host color code of a color (R83). -/
def codeOf : Color → Byte
  | .white => 0x00#8
  | .black => 0x01#8
  | .red => 0x02#8

/-- `(v & ~m) | (bit << k)` with `m = 1 << k` (R184). -/
def mixed (v : Byte) (k : Nat) (bit : BitVec 1) : Byte := (v &&& ~~~(1#8 <<< k)) ||| (bit.setWidth 8 <<< k)

/-- WRPIX at each of a list of coordinates (x, y), in order. -/
def paintAll (code : Byte) : List (Byte × Byte) → State → Host.Outcome State Fault Refusal
  | [], s => .next s
  | (x, y) :: rest, s =>
    match exec (.wrpix code y x) s with
    | .next t => paintAll code rest t
    | .fault f => .fault f
    | .refused r => .refused r

/-- The block waits for a word and may run WRPIX: idle, ready, its planes in canonical form. -/
structure ReadyIdle (s : State) : Prop where
  idle : s.seq = .idle
  ready : s.life = .ready
  blackWf : s.black.wf = true
  redWf : s.red.wf = true

/-- One for an operation in progress that has yet to answer, else zero (R28, R84). -/
def inFlight : Sequencer → Nat
  | .idle => 0
  | .init _ => 1
  | .rfsh _ => 1
  | .poll => 1
  | .halt => 0

/-- A word is illegal (R88), by its number. -/
def illegalWord (w : Word) : Prop :=
  ¬ (w.toNat / 2 ^ 24 = 2 ∨
    (w.toNat / 2 ^ 24 = 1 ∨ w.toNat / 2 ^ 24 = 3 ∨ w.toNat / 2 ^ 24 = 4) ∧ w.toNat % 2 ^ 24 = 0)

/-- The lifecycle flag does not allow the operation of a legal word (R218). -/
def notReadyFor (w : Word) (s : State) : Prop :=
  (w.toNat / 2 ^ 24 = 1 ∧ s.life = .ready) ∨ (w.toNat / 2 ^ 24 ≠ 1 ∧ s.life = .uninit)

/-- A place of an action list that lies inside a command frame (R143, R161): in INIT all but 0, 1, 2, 19 and 44. -/
def inSomeFrame : Sequencer → Prop
  | .idle => False
  | .init k => ¬ (k.val = 0 ∨ k.val = 1 ∨ k.val = 2 ∨ k.val = 19 ∨ k.val = 44)
  | .rfsh _ => True
  | .poll => False
  | .halt => False

/-- The panel commands and the places of their frames in the two lists: place of the first action, of the last (R143,
R161). -/
def issuedAt : Instr → Sequencer → Prop
  | .powerSetting, .init k => 3 ≤ k.val ∧ k.val ≤ 8
  | .boosterSoftStart, .init k => 9 ≤ k.val ∧ k.val ≤ 14
  | .powerOn, .init k => 15 ≤ k.val ∧ k.val ≤ 18
  | .panelSetting, .init k => 20 ≤ k.val ∧ k.val ≤ 25
  | .vcomDataInterval, .init k => 26 ≤ k.val ∧ k.val ≤ 31
  | .pllControl, .init k => 32 ≤ k.val ∧ k.val ≤ 37
  | .vcomDcSetting, .init k => 38 ≤ k.val ∧ k.val ≤ 43
  | .resolutionSetting, .init k => 45 ≤ k.val ∧ k.val ≤ 50
  | .dataStart1, .rfsh k => k.val ≤ 5
  | .dataStart2, .rfsh k => 6 ≤ k.val ∧ k.val ≤ 11
  | .displayRefresh, .rfsh k => 12 ≤ k.val ∧ k.val ≤ 15
  | _, _ => False

/-- The eleven panel commands (R87). -/
def panelCommands : List Instr :=
  [.powerSetting, .boosterSoftStart, .powerOn, .panelSetting, .vcomDataInterval, .pllControl, .vcomDcSetting,
   .resolutionSetting, .dataStart1, .dataStart2, .displayRefresh]

/-- The eleven opcodes (R87). -/
def opcodes : List Byte :=
  [0x00#8, 0x01#8, 0x04#8, 0x06#8, 0x10#8, 0x12#8, 0x13#8, 0x30#8, 0x50#8, 0x61#8, 0x82#8]

/-- The payloads that are not a plane (R87). -/
def constantPayloads : List (List Byte) :=
  [[0xCF#8], [0x03#8, 0x00#8, 0x2B#8, 0x2B#8, 0x09#8], [0x17#8, 0x17#8, 0x17#8], [0x29#8], [0x37#8],
   [0x98#8, 0x00#8, 0x98#8], [0x0A#8]]

end Sys2Proof.Claims

open Sys2Proof Sys2Proof.Machine Sys2Proof.Claims

/-! ### Encoding -/

/-- Decoding what the encoder gives is the instruction again, for every instruction and every value of its fields, and
the table's numbering of the bits gives the same (R81, R82, R87). -/
def Obligations.DecodeOfEncodeIsTheInstruction : Prop :=
  ∀ i : Instr, decode (encode i) = .ok i ∧ decodeTableWord (encode i).bits (encode i).number = some i

/-- A word or an opcode byte that decodes is the encoding of what it decodes to: each has one meaning (R82, R87). -/
def Obligations.DecodedWordsEncodeBack : Prop :=
  (∀ w i, decodeHost w = .ok i → encode i = .host w) ∧ (∀ b i, decodePanel b = .ok i → encode i = .panel b)

/-- Which host words and which opcode bytes are illegal (R88, R87, R89): every other one decodes. -/
def Obligations.IllegalWordsAreExactlyThoseRefused : Prop :=
  (∀ w, illegalWord w ↔ decodeHost w = .error .illegalOperation) ∧
  (∀ w, ¬ illegalWord w ↔ ∃ i, decodeHost w = .ok i) ∧
  (∀ b, b ∉ opcodes ↔ decodePanel b = .error .unknownPanelOpcode) ∧
  (∀ b, b ∈ opcodes ↔ ∃ i, decodePanel b = .ok i)

/-- Some words written out from the tables of R82, R87 and spec/95_test_vectors.md T2 (a sanity statement). -/
def Obligations.SampleWordsDecode : Prop :=
  decodeTableWord 32 0x01000000 = some .init ∧
  decodeTableWord 32 0x0202644B = some (.wrpix 0x02#8 100#8 75#8) ∧
  decodeTableWord 32 0x03000000 = some .refresh ∧
  decodeTableWord 32 0x04000000 = some .size ∧
  decodeTableWord 8 0x61 = some .resolutionSetting ∧
  decodeTableWord 8 0x12 = some .displayRefresh ∧
  decodeTableWord 32 0x03000001 = none ∧
  decodeTableWord 8 0x02 = none

/-! ### What a step runs -/

/-- A word on the port of an idle block that decodes is taken off the port and its instruction is run; with no word the
block waits (R28, R37, R85); that waiting is a step that changes nothing is the model's form of it (log 5). -/
def Obligations.IdleStepRunsTheHostWord : Prop :=
  (∀ s w ws i, s.resetPin = false → s.seq = .idle → s.hostWords = w :: ws → decodeHost w = .ok i →
    step s = exec i { s with hostWords := ws }) ∧
  (∀ s, s.resetPin = false → s.seq = .idle → s.hostWords = [] → step s = .next s)

/-- Inside a command frame a step runs the panel command whose opcode stands there; elsewhere in a list, and in POLL, the
host operation in progress (R28, R95, R143, R161). -/
def Obligations.RunningStepRunsTheInstructionInProgress : Prop :=
  (∀ s i, s.resetPin = false → issuedAt i s.seq → step s = exec i s) ∧
  (∀ s k, s.resetPin = false → s.seq = .init k → ¬ inSomeFrame s.seq → step s = exec .init s) ∧
  (∀ s, s.resetPin = false → s.seq = .poll → step s = exec .refresh s)

/-- Every instruction, encoded and placed where the block finds its next one, is run by the very next step, and it runs: a
host word from IDLE, a panel command from the first place of its frame (the model's own placing; log 18). -/
def Obligations.PlacedInstructionsRunAtOnce : Prop :=
  ∀ (i : Instr) (s : State), ∃ q t,
    step (s.withFetchWord (encode i).bits (encode i).number) = exec i { s with resetPin := false, seq := q } ∧
    exec i { s with resetPin := false, seq := q } = .next t

/-- The action at a place of a frame is the same whether it is read as the host operation's or as the panel command's:
INIT and REFRESH expand to their commands (R95). -/
def Obligations.OperationsExpandToTheirCommands : Prop :=
  (∀ s i k, s.seq = .init k → issuedAt i s.seq → exec .init s = exec i s) ∧
  (∀ s i k, s.seq = .rfsh k → issuedAt i s.seq → exec .refresh s = exec i s)

/-- A step never refuses, and it faults in HALT and nowhere else. R28 and R213 say that nothing is done in HALT; that a step
there ends in the fault `halted` is the model's form of it (log 6), and that no other step is stuck rests on the premise
that every write and delay completes (log 11). -/
def Obligations.StepFaultsOnlyInHaltAndNeverRefuses : Prop :=
  ∀ s, (s.resetPin = false → s.seq = .halt → step s = .fault .halted) ∧
    (s.resetPin = true ∨ s.seq ≠ .halt → ∃ t, step s = .next t)

/-- While an operation runs the block takes no word and its planes keep their contents (R29). -/
def Obligations.BusyBlockTakesNoWordAndKeepsItsPlanes : Prop :=
  ∀ s, s.resetPin = false → s.seq ≠ .idle → s.seq ≠ .halt →
    ∃ t, step s = .next t ∧ t.hostWords = s.hostWords ∧ t.black = s.black ∧ t.red = s.red ∧
      t.op = s.op ∧ t.color = s.color ∧ t.y = s.y ∧ t.x = s.x

/-- A host operation asked for while another operation runs or the block has halted stops by name (R29); the log entry is
2. -/
def Obligations.HostOperationsAreNotAcceptedOutsideIdle : Prop :=
  (∀ s c y x, s.seq ≠ .idle → exec (.wrpix c y x) s = .refused .notAccepted) ∧
  (∀ s, s.seq ≠ .idle → exec .size s = .refused .notAccepted) ∧
  (∀ s, s.seq ≠ .idle → (∀ k, s.seq ≠ .init k) → exec .init s = .refused .notAccepted) ∧
  (∀ s, s.seq ≠ .idle → (∀ k, s.seq ≠ .rfsh k) → s.seq ≠ .poll → exec .refresh s = .refused .notAccepted)

/-- A panel command outside its frame stops by name: the block issues it nowhere else (R89, R223); the log entry is 2. -/
def Obligations.PanelCommandsAreIssuedOnlyInTheirFrames : Prop :=
  ∀ i ∈ panelCommands, ∀ s, ¬ issuedAt i s.seq → exec i s = .refused .notIssued

/-! ### Reset -/

/-- The values of R37 in State.reset; the latches are unspecified there and are not stated. Last clause: the block then
waits. That waiting is a step that changes nothing is log 5, that no word is on the port at reset is log 3, that the reset
input is low is log 4: all three are the model's. -/
def Obligations.ResetLeavesTheStatedValues : Prop :=
  (∀ i, i < 2888 → State.reset.black.read i = 0xFF#8 ∧ State.reset.red.read i = 0xFF#8) ∧
  State.reset.life = .uninit ∧ State.reset.seq = .idle ∧
  State.reset.rst = .notYetDriven ∧ State.reset.cs = .notYetDriven ∧ State.reset.dc = .notYetDriven ∧
  State.reset.trace = [] ∧ step State.reset = .next State.reset

/-- The reset input, in any state, HALT and a hung busy-wait among them: one step puts every piece of the block's state at
the values of R37, and it performs no primitive action (R250). What waits at the port stays (log 4). -/
def Obligations.BlockResetFromEveryState : Prop :=
  ∀ s, s.resetPin = true → ∃ t, step s = .next t ∧
    (∀ i, i < 2888 → t.black.read i = 0xFF#8 ∧ t.red.read i = 0xFF#8) ∧
    t.life = .uninit ∧ t.seq = .idle ∧ t.rst = .notYetDriven ∧ t.cs = .notYetDriven ∧ t.dc = .notYetDriven ∧
    t.trace = [] ∧ t.resetPin = false ∧ t.hostWords = s.hostWords

/-! ### INIT -/

/-- INIT from IDLE: accepted only when `life = UNINIT`; else NotReady, no action, no state change (R147, R28). -/
def Obligations.InitIsAcceptedOnlyBeforeItHasRun : Prop :=
  (∀ s, s.seq = .idle → s.life = .uninit →
    ∃ t, exec .init s = .next t ∧ t = withLatchesOf { s with seq := .init 0 } t) ∧
  (∀ s, s.seq = .idle → s.life = .ready →
    ∃ t, exec .init s = .next t ∧ t = withLatchesOf (responded s 7#8 0#16 0#16) t)

/-- Action `k` of INIT is line `k` of R143's table, for every `k`; all 51 in a row append the table, whatever the bus
answers; the counts R143 gives are those of the table. At `k = 50` the step also completes INIT (R145): that the action and
the completion are one step is the model's (log 21). That each action is followed by the next rests on the premise that
every write and delay completes (D29; log 11). -/
def Obligations.InitPerformsItsActionList : Prop :=
  (∀ (s : State) (k : Fin 51) (e : Event), s.seq = .init k → initTable[k.val]? = some e →
    exec .init s = .next (initNext k (after e s))) ∧
  (∀ s : State, s.seq = .init 0 → ∃ t, execTimes .init 51 s = .next t ∧ t.trace = s.trace ++ initTable) ∧
  initTable.length = 51 ∧
  initTable.countP (fun e => match e with | .line .rst _ => true | _ => false) = 2 ∧
  initTable.countP (fun e => match e with | .line .cs _ => true | _ => false) = 16 ∧
  initTable.count (.line .dc .low) = 8 ∧ initTable.count (.line .dc .high) = 7 ∧
  initTable.countP (fun e => match e with | .write _ => true | _ => false) = 15 ∧
  (transactions initTable).length = 8 ∧ ((transactions initTable).map fun t => t.2.length).sum = 15 ∧
  initTable.countP (fun e => match e with | .delay _ => true | _ => false) = 3

/-- A whole INIT, acceptance and 51 actions: the trace grows by R143's table whatever the bus answers, the planes stay,
the lines end high, the block is READY and has answered `(0, 0, 0)` (R140, R143, R144, R145). That INIT ends rests on the
premise that every write and delay completes (D29; log 11), and 52 is the model's count of steps (log 1, log 21). The latches
hold the word's fields (R27); that they still do after the response is the model's choice (log 8). -/
def Obligations.WholeInitRuns : Prop :=
  ∀ s ws, s.resetPin = false → s.seq = .idle → s.life = .uninit → s.hostWords = 0x01000000#32 :: ws →
    stepTimes 52 s = .next
      { s with
        rst := .driven .high, cs := .driven .high, dc := .driven .high, life := .ready, seq := .idle,
        op := 0x01#8, color := 0x00#8, y := 0x00#8, x := 0x00#8,
        trace := s.trace ++ initTable, hostWords := ws,
        responses := s.responses ++ [⟨0#8, 0#16, 0#16⟩], draws := s.draws + 15 }

/-- The command transactions and the delay requests of a whole INIT, as a receiver reads them off the trace (R146).
That INIT ends rests on the premise that every write and delay completes (D29; log 11), and 52 is the model's count of steps
(log 1, log 21). -/
def Obligations.InitIssuesEightCommandsAndThreeDelays : Prop :=
  ∀ s ws, s.resetPin = false → s.seq = .idle → s.life = .uninit → s.hostWords = 0x01000000#32 :: ws →
    ∃ t, stepTimes 52 s = .next t ∧ t.trace = s.trace ++ initTable ∧
      (transactions initTable).map Prod.fst =
        [0x01#8, 0x06#8, 0x04#8, 0x00#8, 0x50#8, 0x30#8, 0x82#8, 0x61#8] ∧
      delays initTable = [100, 100, 10]

/-! ### REFRESH -/

/-- REFRESH from IDLE: accepted only when `life = READY`; else NotReady and no action (R169, R28). -/
def Obligations.RefreshIsAcceptedOnlyWhenReady : Prop :=
  (∀ s, s.seq = .idle → s.life = .ready →
    ∃ t, exec .refresh s = .next t ∧ t = withLatchesOf { s with seq := .rfsh 0 } t) ∧
  (∀ s, s.seq = .idle → s.life = .uninit →
    ∃ t, exec .refresh s = .next t ∧ t = withLatchesOf (responded s 7#8 0#16 0#16) t)

/-- Action `k` of REFRESH is line `k` of R161's table, for every `k`, with the planes whole and in ascending order (R52);
all 16 in a row append the table with the planes of the state they start from, the planes stay, and the block polls. That a
data command reads its plane when it writes it is the model's (log 20); the acceptance is in
`WholeRefreshRunsToTheBusyWait`. That each action is followed by the next rests on the premise that every write completes
(D29; log 11). -/
def Obligations.RefreshPerformsItsActionList : Prop :=
  (∀ (s : State) (k : Fin 16) (e : Event), s.seq = .rfsh k → (refreshTable s)[k.val]? = some e →
    exec .refresh s = .next (refreshNext k (after e s))) ∧
  (∀ s : State, s.seq = .rfsh 0 → ∃ t, execTimes .refresh 16 s = .next t ∧ t.trace = s.trace ++ refreshTable s ∧
    t.seq = .poll ∧ t.black = s.black ∧ t.red = s.red)

/-- A whole REFRESH up to the busy-wait, acceptance and 16 actions: the trace grows by R161's table with the planes as
they stood at the acceptance, and the block polls with CS high and DC low (R161, R55, R121, R167); the latches hold the
word's fields (R27). That the busy-wait is reached rests on the premise that every write completes (D29; log 11), and 17 is
the model's count of steps (log 1). -/
def Obligations.WholeRefreshRunsToTheBusyWait : Prop :=
  ∀ s ws, s.resetPin = false → s.seq = .idle → s.life = .ready → s.hostWords = 0x03000000#32 :: ws →
    stepTimes 17 s = .next
      { s with
        cs := .driven .high, dc := .driven .low, seq := .poll,
        op := 0x03#8, color := 0x00#8, y := 0x00#8, x := 0x00#8,
        trace := s.trace ++ refreshTable s, hostWords := ws, draws := s.draws + 5 }

/-- The events of REFRESH depend only on the contents of the planes: two blocks whose planes read the same, whatever else
differs, append the same 16 events and then poll (R165). That the busy-wait is reached rests on the premise that every
write completes (D29; log 11), and 17 is the model's count of steps (log 1). -/
def Obligations.RefreshEventsDependOnlyOnThePlanes : Prop :=
  ∀ s₁ s₂ ws₁ ws₂,
    s₁.resetPin = false → s₁.seq = .idle → s₁.life = .ready → s₁.hostWords = 0x03000000#32 :: ws₁ →
    s₂.resetPin = false → s₂.seq = .idle → s₂.life = .ready → s₂.hostWords = 0x03000000#32 :: ws₂ →
    (∀ a, a < 2888 → s₁.black.read a = s₂.black.read a ∧ s₁.red.read a = s₂.red.read a) →
    ∃ t₁ t₂ events, stepTimes 17 s₁ = .next t₁ ∧ stepTimes 17 s₂ = .next t₂ ∧
      t₁.trace = s₁.trace ++ events ∧ t₂.trace = s₂.trace ++ events ∧ events.length = 16 ∧
      t₁.seq = .poll ∧ t₂.seq = .poll

/-- The outcomes of one sample (R163), whichever the environment chooses; `fail` only if samples can fail at all. -/
def Obligations.OneBusySampleHasThreeOutcomes : Prop :=
  (∀ s, s.seq = .poll → exec .refresh s = .next (s.sampled (Config.busyAnswer s.draws))) ∧
  (∀ s, s.seq = .poll → s.sampled .high = after (.busy .high) s) ∧
  (∀ s, s.seq = .poll →
    s.sampled .low = responded { after (.busy .low) s with seq := .idle } 0#8 0#16 0#16) ∧
  (∀ s, s.seq = .poll →
    s.sampled .fail = responded { after (.busy .fail) s with seq := .halt } 2#8 0#16 0#16) ∧
  (∀ n, Config.busyReadFallible = true ∨ Config.busyAnswer n ≠ .fail) ∧
  (∀ fails level, Config.sampleAnswer false fails level = match level with | .high => .high | .low => .low)

/-- The busy-wait ends at the first `low`, after any number of `high`, and no later answer is used (R162). -/
def Obligations.BusyWaitEndsAtTheFirstLow : Prop :=
  ∀ (s : State) (n : Nat) (later : List BusyAnswer), s.seq = .poll →
    s.polled (List.replicate n .high ++ .low :: later) =
      { s with
        seq := .idle, responses := s.responses ++ [⟨0#8, 0#16, 0#16⟩], draws := s.draws + n + 1,
        trace := s.trace ++ List.replicate n (.busy .high) ++ [.busy .low] }

/-- However many samples answer `high`, the block still polls and has given no response: there is no timeout (R164). -/
def Obligations.BusyWaitHasNoTimeout : Prop :=
  ∀ (s : State) (n : Nat), s.seq = .poll →
    s.polled (List.replicate n .high) =
      { s with draws := s.draws + n, trace := s.trace ++ List.replicate n (.busy .high) }

/-- A failed sample answers the pending REFRESH with code 2 and halts the block for good: no step and no instruction goes
on, the planes and lines keep their values, and the reset input leads out (R213, R222). -/
def Obligations.BusyReadFailureHaltsTheBlock : Prop :=
  ∀ s, s.seq = .poll → s.resetPin = false →
    s.sampled .fail = responded { after (.busy .fail) s with seq := .halt } 2#8 0#16 0#16 ∧
    step (s.sampled .fail) = .fault .halted ∧
    (∀ i t, exec i (s.sampled .fail) ≠ .next t) ∧
    (∃ t, step (s.sampled .fail).assertReset = .next t ∧ t.seq = .idle ∧ t.life = .uninit)

/-! ### The panel commands -/

/-- Each of the eight commands of INIT performs, at each place of its frame, the event its envelope has there, and
completes: POWER_SETTING, BOOSTER_SOFT_START, POWER_ON, PANEL_SETTING, VCOM_DATA_INTERVAL, PLL_CONTROL, VCOM_DC_SETTING,
RESOLUTION_SETTING (R110 to R118, R28). Everything else of the state is as before, but at place 50, the last of
RESOLUTION_SETTING, where the step also completes INIT: READY, IDLE and the response (R145); that the action and the
completion are one step is the model's (log 21). -/
def Obligations.InitCommandsPerformTheirEnvelopes : Prop :=
  ∀ row ∈ initCommands, decodePanel row.2.2.1 = .ok row.1 ∧
    ∀ (s : State) (k : Fin 51) (j : Nat) (e : Event), s.seq = .init k → k.val = row.2.1 + j →
      (envelope row.2.2.1 row.2.2.2)[j]? = some e → exec row.1 s = .next (initNext k (after e s))

/-- Likewise the three commands of REFRESH, with the plane as payload: DATA_START_1, DATA_START_2, DISPLAY_REFRESH (R119 to
R121, R28). -/
def Obligations.RefreshCommandsPerformTheirEnvelopes : Prop :=
  ∀ (s : State), ∀ row ∈ refreshCommands s, decodePanel row.2.2.1 = .ok row.1 ∧
    ∀ (k : Fin 16) (j : Nat) (e : Event), s.seq = .rfsh k → k.val = row.2.1 + j →
      (envelope row.2.2.1 row.2.2.2)[j]? = some e → exec row.1 s = .next (refreshNext k (after e s))

/-- A whole command of INIT but the last, from the first place of its frame: its envelope is appended, CS ends high and DC
as the payload says, and the sequencer stands past the frame (R110, R122). That each action is followed by the next rests on
the premise that every write completes (D29; log 11). -/
def Obligations.WholeInitCommandSendsItsEnvelope : Prop :=
  ∀ row ∈ initCommands, ∀ (s : State) (k next : Fin 51), s.seq = .init k → k.val = row.2.1 →
    next.val = k.val + (envelope row.2.2.1 row.2.2.2).length →
    execTimes row.1 (envelope row.2.2.1 row.2.2.2).length s = .next
      { s with
        cs := .driven .high, dc := .driven (dcAfterFrame row.2.2.2), seq := .init next,
        trace := s.trace ++ envelope row.2.2.1 row.2.2.2, draws := s.draws + writesInFrame row.2.2.2 }

/-- A whole RESOLUTION_SETTING, which ends INIT, and a whole DISPLAY_REFRESH, which begins the busy-wait, from the first
place of their frames; and the two data commands, each with its whole plane (R110, R118 to R122, R145). That the last action
of INIT and its completion are one step is the model's (log 21), and so is when a data command reads its plane (log 20). That
each action is followed by the next, so that INIT ends and the busy-wait is reached, rests on the premise that every write
completes (D29; log 11). -/
def Obligations.WholeLastCommandsSendTheirEnvelopes : Prop :=
  (∀ s, s.seq = .init 45 → execTimes .resolutionSetting 6 s = .next
    { s with
      cs := .driven .high, dc := .driven .high, seq := .idle, life := .ready,
      trace := s.trace ++ envelope 0x61#8 [0x98#8, 0x00#8, 0x98#8], draws := s.draws + 2,
      responses := s.responses ++ [⟨0#8, 0#16, 0#16⟩] }) ∧
  (∀ s, s.seq = .rfsh 0 → execTimes .dataStart1 6 s = .next
    { s with
      cs := .driven .high, dc := .driven .high, seq := .rfsh 6,
      trace := s.trace ++ envelope 0x10#8 (planeList s.black), draws := s.draws + 2 }) ∧
  (∀ s, s.seq = .rfsh 6 → execTimes .dataStart2 6 s = .next
    { s with
      cs := .driven .high, dc := .driven .high, seq := .rfsh 12,
      trace := s.trace ++ envelope 0x13#8 (planeList s.red), draws := s.draws + 2 }) ∧
  (∀ s, s.seq = .rfsh 12 → execTimes .displayRefresh 4 s = .next
    { s with
      cs := .driven .high, dc := .driven .low, seq := .poll,
      trace := s.trace ++ envelope 0x12#8 [], draws := s.draws + 1 })

/-! ### The pixel surface -/

/-- WRPIX from IDLE (R184): the three refusals in their order, each with no other change, and the plane updates. The
planes' canonical form is the invariant of `StepKeepsPlanesInvariant`. -/
def Obligations.WrpixDoesWhatItsRuleSays : Prop :=
  ∀ (s : State) (c y x : Byte), s.seq = .idle → s.black.wf = true → s.red.wf = true →
    (s.life = .uninit →
      ∃ t, exec (.wrpix c y x) s = .next t ∧ t = withLatchesOf (responded s 7#8 0#16 0#16) t) ∧
    (s.life = .ready → 3 ≤ c.toNat →
      ∃ t, exec (.wrpix c y x) s = .next t ∧ t = withLatchesOf (responded s 6#8 0#16 0#16) t) ∧
    (s.life = .ready → c.toNat < 3 → 152 ≤ x.toNat ∨ 152 ≤ y.toNat →
      ∃ t, exec (.wrpix c y x) s = .next t ∧ t = withLatchesOf (responded s 4#8 0#16 0#16) t) ∧
    (∀ b r, s.life = .ready → pairOfCode c = some (b, r) → x.toNat < 152 → y.toNat < 152 →
      ∃ t, exec (.wrpix c y x) s = .next t ∧
        t = withLatchesOf (responded { s with black := t.black, red := t.red } 0#8 0#16 0#16) t ∧
        ∀ i k, i = (152 * y.toNat + x.toNat) / 8 → k = 7 - (152 * y.toNat + x.toNat) % 8 →
          t.black.read i = mixed (s.black.read i) k b ∧ t.red.read i = mixed (s.red.read i) k r ∧
          ∀ j, j ≠ i → t.black.read j = s.black.read j ∧ t.red.read j = s.red.read j)

/-- The well-formed pixel requests are exactly those a ready block answers with success (R83, R53, R184, R210). What counts
as well-formed is the model's choice (log 23): a legal request; R220 uses the word otherwise. -/
def Obligations.WellFormedPixelRequestsAreThoseAnsweredWithSuccess : Prop :=
  ∀ (s : State) (c y x : Byte), s.seq = .idle → s.life = .ready →
    ∃ t, exec (.wrpix c y x) s = .next t ∧
      ((Instr.wrpix c y x).wellFormed = true ↔ t.responses = s.responses ++ [⟨0#8, 0#16, 0#16⟩])

/-- The frame rule of WRPIX (R185): the addressed pixel has the color, no other bit of either plane changes, and no other
pixel. -/
def Obligations.WrpixChangesOnePixelOnly : Prop :=
  ∀ (s : State) (col : Color) (y x : Byte), ReadyIdle s → x.toNat < 152 → y.toNat < 152 →
    ∃ t, exec (.wrpix (codeOf col) y x) s = .next t ∧
      (∀ i k, i = (152 * y.toNat + x.toNat) / 8 → k = 7 - (152 * y.toNat + x.toNat) % 8 →
        (t.black.read i).getLsbD k = (blackBit col).getLsbD 0 ∧ (t.red.read i).getLsbD k = (redBit col).getLsbD 0 ∧
        (∀ m, m ≠ k → (t.black.read i).getLsbD m = (s.black.read i).getLsbD m ∧
          (t.red.read i).getLsbD m = (s.red.read i).getLsbD m) ∧
        ∀ j, j ≠ i → t.black.read j = s.black.read j ∧ t.red.read j = s.red.read j) ∧
      t.pixelAt x.toNat y.toNat = .ok col ∧
      ∀ x' y' : Nat, x' < 152 → y' < 152 → (x' ≠ x.toNat ∨ y' ≠ y.toNat) → t.pixelAt x' y' = s.pixelAt x' y'

/-- The laws of R188 as equalities of planes: the last color written to a pixel wins (so writing twice is writing once)
and is what the pixel then decodes to, two writes to different pixels commute, and White on a blank surface changes nothing. -/
def Obligations.WrpixOverwritesAndCommutes : Prop :=
  (∀ (s : State) (c₁ c₂ : Color) (y x : Byte), ReadyIdle s → x.toNat < 152 → y.toNat < 152 →
    ∃ t₁ t₂ t, exec (.wrpix (codeOf c₁) y x) s = .next t₁ ∧ exec (.wrpix (codeOf c₂) y x) t₁ = .next t₂ ∧
      exec (.wrpix (codeOf c₂) y x) s = .next t ∧ t₂.black = t.black ∧ t₂.red = t.red ∧
      t₂.pixelAt x.toNat y.toNat = .ok c₂) ∧
  (∀ (s : State) (c₁ c₂ : Color) (y₁ x₁ y₂ x₂ : Byte), ReadyIdle s → x₁.toNat < 152 → y₁.toNat < 152 →
    x₂.toNat < 152 → y₂.toNat < 152 → (x₁ ≠ x₂ ∨ y₁ ≠ y₂) →
    ∃ t₁ t₁₂ t₂ t₂₁, exec (.wrpix (codeOf c₁) y₁ x₁) s = .next t₁ ∧ exec (.wrpix (codeOf c₂) y₂ x₂) t₁ = .next t₁₂ ∧
      exec (.wrpix (codeOf c₂) y₂ x₂) s = .next t₂ ∧ exec (.wrpix (codeOf c₁) y₁ x₁) t₂ = .next t₂₁ ∧
      t₁₂.black = t₂₁.black ∧ t₁₂.red = t₂₁.red) ∧
  (∀ (s : State) (y x : Byte), ReadyIdle s → s.black = [] → s.red = [] → x.toNat < 152 → y.toNat < 152 →
    ∃ t, exec (.wrpix 0x00#8 y x) s = .next t ∧ t.black = [] ∧ t.red = [])

/-- Painting every in-range coordinate of an all-white surface, in any order: Black leaves the black plane all zeros and
the red plane all ones, Red the other way round (R190). -/
def Obligations.FillingReconstructsTheImage : Prop :=
  ∀ (s : State) (coords : List (Byte × Byte)), ReadyIdle s → s.black = [] → s.red = [] →
    (∀ p ∈ coords, p.1.toNat < 152 ∧ p.2.toNat < 152) →
    (∀ x y : Byte, x.toNat < 152 → y.toNat < 152 → (x, y) ∈ coords) →
    (∃ t, paintAll 0x01#8 coords s = .next t ∧ ∀ a, a < 2888 → t.black.read a = 0x00#8 ∧ t.red.read a = 0xFF#8) ∧
    (∃ t, paintAll 0x02#8 coords s = .next t ∧ ∀ a, a < 2888 → t.black.read a = 0xFF#8 ∧ t.red.read a = 0x00#8)

/-- SIZE from IDLE (R186): the fixed dimensions, and nothing of the state changes; before INIT, NotReady. -/
def Obligations.SizeAnswersTheFixedDimensions : Prop :=
  (∀ s, s.seq = .idle → s.life = .ready →
    ∃ t, exec .size s = .next t ∧ t = withLatchesOf (responded s 0#8 152#16 152#16) t) ∧
  (∀ s, s.seq = .idle → s.life = .uninit →
    ∃ t, exec .size s = .next t ∧ t = withLatchesOf (responded s 7#8 0#16 0#16) t)

/-- The encoder of R181, whose pair is never (0, 0), and the decoder of R182: the round trip, and the reserved pair that
fails. -/
def Obligations.ColorEncoderAndDecoderAgree : Prop :=
  (blackBit .white, redBit .white) = (1#1, 1#1) ∧ (blackBit .black, redBit .black) = (0#1, 1#1) ∧
  (blackBit .red, redBit .red) = (1#1, 0#1) ∧
  (∀ c, ¬ (blackBit c = 0#1 ∧ redBit c = 0#1)) ∧
  (∀ c, decodeColor (blackBit c) (redBit c) = .ok c) ∧
  (∀ b r c, decodeColor b r = .ok c → b = blackBit c ∧ r = redBit c) ∧
  decodeColor 0#1 0#1 = .error .invalidColorEncoding

/-- The mapping of R183: its two forms agree, it stays inside a plane, and it is a bijection of the in-range coordinates
onto the positions (byte, bit). -/
def Obligations.CoordinatesMapOneToOneOntoPlaneBits : Prop :=
  (∀ x y, x < 152 → y < 152 →
    pixelIndex x y = 152 * y + x ∧ pixelIndex x y < 23104 ∧
    byteIndex x y = (152 * y + x) / 8 ∧ bitOffset x y = 7 - (152 * y + x) % 8 ∧ mask (bitOffset x y) = 1#8 <<< bitOffset x y ∧
    byteIndex x y = 19 * y + x / 8 ∧ bitOffset x y = 7 - x % 8 ∧ byteIndex x y < 2888 ∧ bitOffset x y < 8) ∧
  (∀ x y x' y', x < 152 → y < 152 → x' < 152 → y' < 152 →
    byteIndex x y = byteIndex x' y' → bitOffset x y = bitOffset x' y' → x = x' ∧ y = y') ∧
  (∀ i k, i < 2888 → k < 8 → ∃ x y, x < 152 ∧ y < 152 ∧ byteIndex x y = i ∧ bitOffset x y = k)

/-- Planes in canonical form that read the same are the same data (the model's own: instructions for State). -/
def Obligations.CanonicalPlanesThatReadAlikeAreEqual : Prop :=
  ∀ m n : Memory, m.wf = true → n.wf = true → (∀ a, a < 2888 → m.read a = n.read a) → m = n

/-! ### The host port -/

/-- The checks on a host word in their order, the first that fails giving the response and nothing else changing (R220):
IllegalOperation, NotReady, IllegalColorCode, OutOfRange. -/
def Obligations.HostWordIsCheckedInOrder : Prop :=
  ∀ (s : State) (w : Word) (ws : List Word), s.resetPin = false → s.seq = .idle → s.hostWords = w :: ws →
    (illegalWord w →
      ∃ t, step s = .next t ∧ t = withLatchesOf (responded { s with hostWords := ws } 5#8 0#16 0#16) t) ∧
    (¬ illegalWord w → notReadyFor w s →
      ∃ t, step s = .next t ∧ t = withLatchesOf (responded { s with hostWords := ws } 7#8 0#16 0#16) t) ∧
    (w.toNat / 2 ^ 24 = 2 → ¬ notReadyFor w s → 3 ≤ w.toNat / 2 ^ 16 % 2 ^ 8 →
      ∃ t, step s = .next t ∧ t = withLatchesOf (responded { s with hostWords := ws } 6#8 0#16 0#16) t) ∧
    (w.toNat / 2 ^ 24 = 2 → ¬ notReadyFor w s → w.toNat / 2 ^ 16 % 2 ^ 8 < 3 →
      152 ≤ w.toNat / 2 ^ 8 % 2 ^ 8 ∨ 152 ≤ w.toNat % 2 ^ 8 →
      ∃ t, step s = .next t ∧ t = withLatchesOf (responded { s with hostWords := ws } 4#8 0#16 0#16) t)

/-- A step that takes a word copies its four fields into the latches; no other step but a block reset changes a latch
(R27). -/
def Obligations.AcceptedWordFillsTheLatches : Prop :=
  (∀ s w ws, s.resetPin = false → s.seq = .idle → s.hostWords = w :: ws →
    ∃ t, step s = .next t ∧ t.hostWords = ws ∧ t.op.toNat = w.toNat / 2 ^ 24 ∧
      t.color.toNat = w.toNat / 2 ^ 16 % 2 ^ 8 ∧ t.y.toNat = w.toNat / 2 ^ 8 % 2 ^ 8 ∧ t.x.toNat = w.toNat % 2 ^ 8) ∧
  (∀ s t, s.resetPin = false → (s.seq ≠ .idle ∨ s.hostWords = []) → step s = .next t →
    t.op = s.op ∧ t.color = s.color ∧ t.y = s.y ∧ t.x = s.x)

/-- Words, operations in progress and responses balance at every step but a block reset: each accepted word gets one
response, when its operation ends; and only these responses are given, code 1 never (R84, R210, R211). -/
def Obligations.EachAcceptedWordGetsOneResponse : Prop :=
  ∀ s t, s.resetPin = false → step s = .next t →
    t.responses.length + inFlight t.seq + t.hostWords.length =
      s.responses.length + inFlight s.seq + s.hostWords.length ∧
    (t.responses = s.responses ∨ ∃ r, t.responses = s.responses ++ [r] ∧
      (r = ⟨0#8, 0#16, 0#16⟩ ∨ r = ⟨2#8, 0#16, 0#16⟩ ∨ r = ⟨4#8, 0#16, 0#16⟩ ∨ r = ⟨5#8, 0#16, 0#16⟩ ∨
        r = ⟨6#8, 0#16, 0#16⟩ ∨ r = ⟨7#8, 0#16, 0#16⟩ ∨
        (r = ⟨0#8, 152#16, 152#16⟩ ∧ s.seq = .idle ∧ s.hostWords.head? = some 0x04000000#32)))

/-! ### Rules about the whole machine -/

/-- A plane changes only by WRPIX, and by block reset (R21, R22, R24). -/
def Obligations.OnlyWrpixChangesAPlane : Prop :=
  ∀ s t, s.resetPin = false → step s = .next t → (t.black ≠ s.black ∨ t.red ≠ s.red) →
    s.seq = .idle ∧ s.life = .ready ∧ ∃ w ws, s.hostWords = w :: ws ∧ w.toNat / 2 ^ 24 = 2

/-- The lifecycle flag changes only at the last action of INIT, to READY, and by block reset (R30). -/
def Obligations.OnlyTheEndOfInitChangesTheLifecycleFlag : Prop :=
  ∀ s t, s.resetPin = false → step s = .next t →
    (s.seq = .init 50 → t.life = .ready) ∧ (s.seq ≠ .init 50 → t.life = s.life)

/-- Every primitive action appends exactly one event, and nothing else touches the trace (R36); what happens outside the
command frames is the two drives of RST, the delays and the busy samples, and inside them drives of CS and DC and writes
(R123). -/
def Obligations.EveryActionAppendsOneEventOfItsPlace : Prop :=
  ∀ s t, s.resetPin = false → step s = .next t →
    (s.seq = .idle → t.trace = s.trace) ∧
    (s.seq ≠ .idle → ∃ e, t.trace = s.trace ++ [e] ∧
      (inSomeFrame s.seq → (∃ l, e = .line .cs l) ∨ (∃ l, e = .line .dc l) ∨ ∃ bytes, bytes ≠ [] ∧ e = .write bytes) ∧
      (¬ inSomeFrame s.seq → (s.seq = .init 0 ∧ e = .line .rst .low) ∨ (s.seq = .init 2 ∧ e = .line .rst .high) ∨
        ((s.seq = .init 1 ∨ s.seq = .init 19) ∧ e = .delay 100) ∨ (s.seq = .init 44 ∧ e = .delay 10) ∨
        (s.seq = .poll ∧ ∃ a, e = .busy a)))

/-- What a step writes on the bus: with the panel selected, under DC low one opcode of the eleven, under DC high a constant
payload or a whole plane (R86, R89). The premise is the invariant of `StepKeepsLinesInvariant`. -/
def Obligations.WritesAreOpcodesAndTheirPayloads : Prop :=
  ∀ s t bytes, LinesInv s → s.resetPin = false → step s = .next t → t.trace = s.trace ++ [.write bytes] →
    s.cs = .driven .low ∧
    ((s.dc = .driven .low ∧ ∃ c ∈ opcodes, bytes = [c]) ∨
      (s.dc = .driven .high ∧
        (bytes ∈ constantPayloads ∨ bytes = planeList s.black ∨ bytes = planeList s.red)))

/-! ### Invariants -/

/-- The three invariants hold after block reset. -/
def Obligations.InvariantsHoldAtReset : Prop :=
  PlanesInv State.reset ∧ LinesInv State.reset ∧ TraceInv State.reset

/-- Every step keeps the planes in canonical form, free of the reserved pair (R23), and all ones until INIT has completed
(R38). -/
def Obligations.StepKeepsPlanesInvariant : Prop :=
  ∀ s t, PlanesInv s → step s = .next t → PlanesInv t

/-- Every step keeps the levels of the three lines what the sequencer's place says (R26, R122, R145, R213, R252). -/
def Obligations.StepKeepsLinesInvariant : Prop :=
  ∀ s t, LinesInv s → step s = .next t → LinesInv t

/-- Every step keeps the trace what the sequencer's place says: the INIT list, whole operations, the REFRESH list, then
samples (R36, R143, R161, R162, R168). -/
def Obligations.StepKeepsTraceInvariant : Prop :=
  ∀ s t, TraceInv s → step s = .next t → TraceInv t

/-- In every state a run from block reset reaches, whatever the host presents, whatever the environment answers and
whenever the reset input is raised, every in-range pixel is White, Black or Red: the last sentence of R23, in the form of
R182. What a run is (words presented and resets between any two steps) is the model's (log 3, log 4). -/
def Obligations.EveryReachablePixelHasAColor : Prop :=
  ∀ s, Reachable s → ∀ x y, x < 152 → y < 152 → ∃ c, s.pixelAt x y = .ok c

/-- When a sample ends the busy-wait, it answered `low`, the host gets its success, and the trace ends with the whole
REFRESH list, any number of samples that answered `high`, and that one (R168). The premise is the invariant of
`StepKeepsTraceInvariant`; that a step in POLL is `sampled` is in `OneBusySampleHasThreeOutcomes`. -/
def Obligations.AnsweredRefreshHasSentEverything : Prop :=
  ∀ (s : State) (a : BusyAnswer), TraceInv s → s.seq = .poll → (s.sampled a).seq = .idle →
    a = .low ∧ (s.sampled a).responses = s.responses ++ [⟨0#8, 0#16, 0#16⟩] ∧
    ∃ earlier n, (s.sampled a).trace = earlier ++ refreshTable s ++ List.replicate n (.busy .high) ++ [.busy .low]
end

