-- ==== Sys2Proof/Laws/Decode.lean ====
section
/-! SUPPORT. The fields of a host command word as numbers (spec/30_encoding.md R81), and a word from its fields. -/

namespace Sys2Proof

theorem opField_toNat (w : Word) : (opField w).toNat = w.toNat / 2 ^ 24 := by
  have h := w.isLt
  simp only [opField, BitVec.extractLsb'_toNat, Nat.shiftRight_eq_div_pow]
  omega

theorem colorField_toNat (w : Word) : (colorField w).toNat = w.toNat / 2 ^ 16 % 2 ^ 8 := by
  simp only [colorField, BitVec.extractLsb'_toNat, Nat.shiftRight_eq_div_pow]

theorem yField_toNat (w : Word) : (yField w).toNat = w.toNat / 2 ^ 8 % 2 ^ 8 := by
  simp only [yField, BitVec.extractLsb'_toNat, Nat.shiftRight_eq_div_pow]

theorem xField_toNat (w : Word) : (xField w).toNat = w.toNat % 2 ^ 8 := by
  simp [xField]

theorem reservedZero_iff (w : Word) : reservedZero w = true ↔ w.toNat % 2 ^ 24 = 0 := by
  simp only [reservedZero, beq_iff_eq]
  rw [← BitVec.toNat_inj]
  simp

theorem hostWord_toNat (op c y x : Byte) :
    (hostWord op c y x).toNat = op.toNat * 2 ^ 24 + c.toNat * 2 ^ 16 + y.toNat * 2 ^ 8 + x.toNat := by
  have h1 := op.isLt
  have h2 := c.isLt
  have h3 := y.isLt
  have h4 := x.isLt
  rw [hostWord, BitVec.toNat_append, BitVec.toNat_append, BitVec.toNat_append, ← Nat.shiftLeft_add_eq_or_of_lt h4,
    ← Nat.shiftLeft_add_eq_or_of_lt h3, ← Nat.shiftLeft_add_eq_or_of_lt h2]
  simp only [Nat.shiftLeft_eq]
  omega

/-- The fields of a word made of four fields. -/
theorem fields_hostWord (op c y x : Byte) :
    opField (hostWord op c y x) = op ∧ colorField (hostWord op c y x) = c ∧ yField (hostWord op c y x) = y ∧
    xField (hostWord op c y x) = x := by
  have h1 := op.isLt
  have h2 := c.isLt
  have h3 := y.isLt
  have h4 := x.isLt
  refine ⟨?_, ?_, ?_, ?_⟩ <;> apply BitVec.eq_of_toNat_eq <;>
    simp only [opField_toNat, colorField_toNat, yField_toNat, xField_toNat, hostWord_toNat] <;> omega

end Sys2Proof
end

