-- ==== Sys2Proof/Laws/Memory.lean ====
section
/-! SUPPORT. The laws of plane memory: every operation keeps the canonical form, a read after a write, a canonical plane
is determined by what it reads as, the bytes of a whole plane; and the read-modify-write of one byte. -/

namespace Sys2Proof.Machine

theorem width_eq : Config.width = 152 := rfl
theorem height_eq : Config.height = 152 := rfl
theorem planeBytes_eq : Config.planeBytes = 2888 := rfl

/-! ### Canonical form -/

theorem Memory.wfFrom_cons {low k : Nat} {v : Byte} {rest : Memory} :
    Memory.wfFrom low ((k, v) :: rest) = true ↔
      low ≤ k ∧ k < 2888 ∧ v ≠ Config.blank ∧ Memory.wfFrom (k + 1) rest = true := by
  simp only [Memory.wfFrom, Bool.and_eq_true, decide_eq_true_eq, and_assoc]
  exact Iff.rfl

theorem Memory.wfFrom_mono {m : Memory} {low low' : Nat} (h : Memory.wfFrom low m = true) (hl : low' ≤ low) :
    Memory.wfFrom low' m = true := by
  cases m with
  | nil => rfl
  | cons c rest =>
    obtain ⟨k, v⟩ := c
    rw [Memory.wfFrom_cons] at h ⊢
    exact ⟨Nat.le_trans hl h.1, h.2⟩

theorem Memory.put_wfFrom {a low : Nat} {v : Byte} {rest : Memory} (hl : low ≤ a) (ha : a < 2888)
    (h : Memory.wfFrom (a + 1) rest = true) : Memory.wfFrom low (Memory.put a v rest) = true := by
  unfold Memory.put
  split
  · exact Memory.wfFrom_mono h (by omega)
  · next hv => exact Memory.wfFrom_cons.2 ⟨hl, ha, hv, h⟩

theorem Memory.write_wfFrom {m : Memory} {a low : Nat} {v : Byte} (hl : low ≤ a) (ha : a < 2888)
    (h : Memory.wfFrom low m = true) : Memory.wfFrom low (Memory.write a v m) = true := by
  induction m generalizing low with
  | nil => exact Memory.put_wfFrom hl ha rfl
  | cons c rest ih =>
    obtain ⟨k, b⟩ := c
    obtain ⟨h1, h2, h3, h4⟩ := Memory.wfFrom_cons.1 h
    unfold Memory.write
    split
    · next hak => exact Memory.put_wfFrom hl ha (Memory.wfFrom_cons.2 ⟨hak, h2, h3, h4⟩)
    · next hak =>
      split
      · next heq => exact Memory.put_wfFrom hl ha (heq ▸ h4)
      · next hne => exact Memory.wfFrom_cons.2 ⟨h1, h2, h3, ih (by omega) h4⟩

/-- A store keeps the canonical form. -/
theorem Memory.store_wf {m m' : Memory} {a : Nat} {v : Byte} (h : m.wf = true) (hs : m.store a v = some m') :
    m'.wf = true := by
  unfold Memory.store at hs
  split at hs
  · next ha =>
    cases hs
    exact Memory.write_wfFrom (Nat.zero_le a) ha h
  · cases hs

/-- Reset memory has the canonical form. -/
theorem Memory.empty_wf : Memory.wf [] = true := rfl

/-! ### Reading -/

theorem Memory.read_of_lt {m : Memory} {a low : Nat} (h : Memory.wfFrom low m = true) (ha : a < low) :
    m.read a = Config.blank := by
  induction m generalizing low with
  | nil => rfl
  | cons c rest ih =>
    obtain ⟨k, b⟩ := c
    obtain ⟨h1, _, _, h4⟩ := Memory.wfFrom_cons.1 h
    simp only [Memory.read, if_neg (show ¬ k = a by omega)]
    exact ih h4 (by omega)

theorem Memory.read_of_ge {m : Memory} {a low : Nat} (h : Memory.wfFrom low m = true) (ha : 2888 ≤ a) :
    m.read a = Config.blank := by
  induction m generalizing low with
  | nil => rfl
  | cons c rest ih =>
    obtain ⟨k, b⟩ := c
    obtain ⟨_, h2, _, h4⟩ := Memory.wfFrom_cons.1 h
    simp only [Memory.read, if_neg (show ¬ k = a by omega)]
    exact ih h4

theorem Memory.read_put {a low j : Nat} {v : Byte} {rest : Memory} (h : Memory.wfFrom low rest = true) (ha : a < low) :
    (Memory.put a v rest).read j = if j = a then v else rest.read j := by
  unfold Memory.put
  split
  · next hv =>
    split
    · next hj => rw [hj, Memory.read_of_lt h ha, hv]
    · rfl
  · by_cases hj : j = a
    · simp [Memory.read, hj]
    · simp [Memory.read, hj, Ne.symm hj]

theorem Memory.read_write_from {m : Memory} {a low j : Nat} {v : Byte} (h : Memory.wfFrom low m = true) :
    (Memory.write a v m).read j = if j = a then v else m.read j := by
  induction m generalizing low with
  | nil => exact Memory.read_put (low := a + 1) rfl (by omega)
  | cons c rest ih =>
    obtain ⟨k, b⟩ := c
    obtain ⟨h1, h2, h3, h4⟩ := Memory.wfFrom_cons.1 h
    unfold Memory.write
    split
    · next hak => exact Memory.read_put (Memory.wfFrom_cons.2 ⟨Nat.le_refl k, h2, h3, h4⟩) hak
    · split
      · next heq =>
        subst heq
        rw [Memory.read_put h4 (by omega)]
        by_cases hj : j = a
        · simp [hj]
        · simp [Memory.read, hj, Ne.symm hj]
      · next hne =>
        simp only [Memory.read, ih h4]
        by_cases hk : k = j
        · simp [hk, show ¬ j = a by omega]
        · simp [hk]

/-- A read after a write. -/
theorem Memory.read_write {m : Memory} {a j : Nat} {v : Byte} (h : m.wf = true) :
    (Memory.write a v m).read j = if j = a then v else m.read j :=
  Memory.read_write_from h

/-! ### The bytes of a whole plane -/

theorem Memory.bytesFrom_eq (m : Memory) (a n : Nat) : m.bytesFrom a n = (List.range' a n).map m.read := by
  induction n generalizing a with
  | zero => rfl
  | succ n ih => rw [Memory.bytesFrom, ih, List.range'_succ, List.map_cons]

/-- A whole plane is what every address from 0 up reads as. -/
theorem Memory.bytes_eq (m : Memory) : m.bytes = (List.range 2888).map m.read := by
  rw [Memory.bytes, Memory.bytesFrom_eq, planeBytes_eq, List.range_eq_range']

/-- A whole plane is not an empty payload. -/
theorem Memory.bytes_cons (m : Memory) : m.bytes = m.read 0 :: m.bytesFrom 1 2887 := by
  rw [Memory.bytes, show Config.planeBytes = 2887 + 1 from rfl, Memory.bytesFrom]

/-! ### One pixel's bit -/

theorem mask_getLsbD {k i : Nat} (hk : k < 8) : (mask k).getLsbD i = decide (i = k) := by
  by_cases h : i = k
  · subst h
    simp [mask, hk]
  · by_cases hlt : i < k
    · simp [mask, hlt, h]
    · have : i - k ≠ 0 := by omega
      simp [mask, h, hlt, this]

/-- The clear-then-set of R184: bit `k` is the given bit, every other bit is kept. -/
theorem putBit_getLsbD {v : Byte} {k i : Nat} {b : BitVec 1} (hk : k < 8) :
    (putBit v k b).getLsbD i = if i = k then b.getLsbD 0 else v.getLsbD i := by
  simp only [putBit, BitVec.getLsbD_or, BitVec.getLsbD_and, BitVec.getLsbD_not, BitVec.getLsbD_shiftLeft,
    BitVec.getLsbD_setWidth, mask_getLsbD hk]
  by_cases h : i = k
  · subst h
    simp [hk]
  · by_cases h8 : i < 8
    · by_cases hlt : i < k
      · simp [h, h8, hlt]
      · have h0 : b.getLsbD (i - k) = false := BitVec.getLsbD_of_ge b _ (by omega)
        simp [h, h8, h0]
    · have h1 : v.getLsbD i = false := BitVec.getLsbD_of_ge v _ (by omega)
      simp [h, h8, h1]

/-- The last bit put at a place wins. -/
theorem putBit_putBit {v : Byte} {k : Nat} {b c : BitVec 1} (hk : k < 8) :
    putBit (putBit v k b) k c = putBit v k c := by
  apply BitVec.eq_of_getLsbD_eq
  intro i _
  rw [putBit_getLsbD hk, putBit_getLsbD hk, putBit_getLsbD hk]
  split <;> rfl

/-- Bits put at different places do not disturb each other. -/
theorem putBit_comm {v : Byte} {k j : Nat} {b c : BitVec 1} (hk : k < 8) (hj : j < 8) (hne : k ≠ j) :
    putBit (putBit v k b) j c = putBit (putBit v j c) k b := by
  apply BitVec.eq_of_getLsbD_eq
  intro i _
  rw [putBit_getLsbD hj, putBit_getLsbD hk, putBit_getLsbD hk, putBit_getLsbD hj]
  split <;> split <;> simp_all

/-- A bit of a plane byte that was just put. -/
theorem bitAt_of_getLsbD {v : Byte} {k : Nat} {b : BitVec 1} (h : v.getLsbD k = b.getLsbD 0) : bitAt v k = b := by
  apply BitVec.eq_of_getLsbD_eq
  intro i hi
  obtain rfl : i = 0 := by omega
  simpa [bitAt] using h

/-- What the read-modify-write of one plane byte answers, for an address inside the plane. -/
theorem plot_eq {m : Memory} {i k : Nat} {b : BitVec 1} (hi : i < 2888) :
    plot m i k b = some (Memory.write i (putBit (m.read i) k b) m) := by
  simp [plot, Memory.load, Memory.store, planeBytes_eq, hi]

/-- Outside the plane it answers nothing (R57). -/
theorem plot_none {m : Memory} {i k : Nat} {b : BitVec 1} (hi : ¬ i < 2888) : plot m i k b = none := by
  simp [plot, Memory.load, planeBytes_eq, hi]

theorem byteIndex_lt {x y : Nat} (hx : x < 152) (hy : y < 152) : byteIndex x y < 2888 := by
  simp only [byteIndex, pixelIndex, width_eq]
  omega

theorem bitOffset_lt (x y : Nat) : bitOffset x y < 8 := by
  simp only [bitOffset]
  omega

end Sys2Proof.Machine
end

