-- ==== Sys2Proof/Laws/State.lean ====
section
/-! SUPPORT. One lemma per field and update of State, each true by definition, so that no later proof unfolds a record
update. -/

namespace Sys2Proof.Machine

@[simp] theorem State.log_black (s : State) (e : Event) : (s.log e).black = s.black := rfl
@[simp] theorem State.log_red (s : State) (e : Event) : (s.log e).red = s.red := rfl
@[simp] theorem State.log_rst (s : State) (e : Event) : (s.log e).rst = s.rst := rfl
@[simp] theorem State.log_cs (s : State) (e : Event) : (s.log e).cs = s.cs := rfl
@[simp] theorem State.log_dc (s : State) (e : Event) : (s.log e).dc = s.dc := rfl
@[simp] theorem State.log_life (s : State) (e : Event) : (s.log e).life = s.life := rfl
@[simp] theorem State.log_seq (s : State) (e : Event) : (s.log e).seq = s.seq := rfl
@[simp] theorem State.log_op (s : State) (e : Event) : (s.log e).op = s.op := rfl
@[simp] theorem State.log_color (s : State) (e : Event) : (s.log e).color = s.color := rfl
@[simp] theorem State.log_y (s : State) (e : Event) : (s.log e).y = s.y := rfl
@[simp] theorem State.log_x (s : State) (e : Event) : (s.log e).x = s.x := rfl
@[simp] theorem State.log_trace (s : State) (e : Event) : (s.log e).trace = s.trace ++ [e] := rfl
@[simp] theorem State.log_hostWords (s : State) (e : Event) : (s.log e).hostWords = s.hostWords := rfl
@[simp] theorem State.log_resetPin (s : State) (e : Event) : (s.log e).resetPin = s.resetPin := rfl
@[simp] theorem State.log_responses (s : State) (e : Event) : (s.log e).responses = s.responses := rfl
@[simp] theorem State.log_draws (s : State) (e : Event) : (s.log e).draws = s.draws := rfl

@[simp] theorem State.draw_black (s : State) : (s.draw).black = s.black := rfl
@[simp] theorem State.draw_red (s : State) : (s.draw).red = s.red := rfl
@[simp] theorem State.draw_rst (s : State) : (s.draw).rst = s.rst := rfl
@[simp] theorem State.draw_cs (s : State) : (s.draw).cs = s.cs := rfl
@[simp] theorem State.draw_dc (s : State) : (s.draw).dc = s.dc := rfl
@[simp] theorem State.draw_life (s : State) : (s.draw).life = s.life := rfl
@[simp] theorem State.draw_seq (s : State) : (s.draw).seq = s.seq := rfl
@[simp] theorem State.draw_op (s : State) : (s.draw).op = s.op := rfl
@[simp] theorem State.draw_color (s : State) : (s.draw).color = s.color := rfl
@[simp] theorem State.draw_y (s : State) : (s.draw).y = s.y := rfl
@[simp] theorem State.draw_x (s : State) : (s.draw).x = s.x := rfl
@[simp] theorem State.draw_trace (s : State) : (s.draw).trace = s.trace := rfl
@[simp] theorem State.draw_hostWords (s : State) : (s.draw).hostWords = s.hostWords := rfl
@[simp] theorem State.draw_resetPin (s : State) : (s.draw).resetPin = s.resetPin := rfl
@[simp] theorem State.draw_responses (s : State) : (s.draw).responses = s.responses := rfl
@[simp] theorem State.draw_draws (s : State) : (s.draw).draws = s.draws + 1 := rfl

@[simp] theorem State.accept_black (s : State) (o c v u : Byte) : (s.accept o c v u).black = s.black := rfl
@[simp] theorem State.accept_red (s : State) (o c v u : Byte) : (s.accept o c v u).red = s.red := rfl
@[simp] theorem State.accept_rst (s : State) (o c v u : Byte) : (s.accept o c v u).rst = s.rst := rfl
@[simp] theorem State.accept_cs (s : State) (o c v u : Byte) : (s.accept o c v u).cs = s.cs := rfl
@[simp] theorem State.accept_dc (s : State) (o c v u : Byte) : (s.accept o c v u).dc = s.dc := rfl
@[simp] theorem State.accept_life (s : State) (o c v u : Byte) : (s.accept o c v u).life = s.life := rfl
@[simp] theorem State.accept_seq (s : State) (o c v u : Byte) : (s.accept o c v u).seq = s.seq := rfl
@[simp] theorem State.accept_op (s : State) (o c v u : Byte) : (s.accept o c v u).op = o := rfl
@[simp] theorem State.accept_color (s : State) (o c v u : Byte) : (s.accept o c v u).color = c := rfl
@[simp] theorem State.accept_y (s : State) (o c v u : Byte) : (s.accept o c v u).y = v := rfl
@[simp] theorem State.accept_x (s : State) (o c v u : Byte) : (s.accept o c v u).x = u := rfl
@[simp] theorem State.accept_trace (s : State) (o c v u : Byte) : (s.accept o c v u).trace = s.trace := rfl
@[simp] theorem State.accept_hostWords (s : State) (o c v u : Byte) : (s.accept o c v u).hostWords = s.hostWords := rfl
@[simp] theorem State.accept_resetPin (s : State) (o c v u : Byte) : (s.accept o c v u).resetPin = s.resetPin := rfl
@[simp] theorem State.accept_responses (s : State) (o c v u : Byte) : (s.accept o c v u).responses = s.responses := rfl
@[simp] theorem State.accept_draws (s : State) (o c v u : Byte) : (s.accept o c v u).draws = s.draws := rfl

@[simp] theorem State.respond_black (s : State) (st : BitVec 8) (w h : BitVec 16) : (s.respond st w h).black = s.black := rfl
@[simp] theorem State.respond_red (s : State) (st : BitVec 8) (w h : BitVec 16) : (s.respond st w h).red = s.red := rfl
@[simp] theorem State.respond_rst (s : State) (st : BitVec 8) (w h : BitVec 16) : (s.respond st w h).rst = s.rst := rfl
@[simp] theorem State.respond_cs (s : State) (st : BitVec 8) (w h : BitVec 16) : (s.respond st w h).cs = s.cs := rfl
@[simp] theorem State.respond_dc (s : State) (st : BitVec 8) (w h : BitVec 16) : (s.respond st w h).dc = s.dc := rfl
@[simp] theorem State.respond_life (s : State) (st : BitVec 8) (w h : BitVec 16) : (s.respond st w h).life = s.life := rfl
@[simp] theorem State.respond_seq (s : State) (st : BitVec 8) (w h : BitVec 16) : (s.respond st w h).seq = s.seq := rfl
@[simp] theorem State.respond_op (s : State) (st : BitVec 8) (w h : BitVec 16) : (s.respond st w h).op = s.op := rfl
@[simp] theorem State.respond_color (s : State) (st : BitVec 8) (w h : BitVec 16) : (s.respond st w h).color = s.color := rfl
@[simp] theorem State.respond_y (s : State) (st : BitVec 8) (w h : BitVec 16) : (s.respond st w h).y = s.y := rfl
@[simp] theorem State.respond_x (s : State) (st : BitVec 8) (w h : BitVec 16) : (s.respond st w h).x = s.x := rfl
@[simp] theorem State.respond_trace (s : State) (st : BitVec 8) (w h : BitVec 16) : (s.respond st w h).trace = s.trace := rfl
@[simp] theorem State.respond_hostWords (s : State) (st : BitVec 8) (w h : BitVec 16) : (s.respond st w h).hostWords = s.hostWords := rfl
@[simp] theorem State.respond_resetPin (s : State) (st : BitVec 8) (w h : BitVec 16) : (s.respond st w h).resetPin = s.resetPin := rfl
@[simp] theorem State.respond_responses (s : State) (st : BitVec 8) (w h : BitVec 16) : (s.respond st w h).responses = s.responses ++ [⟨st, w, h⟩] := rfl
@[simp] theorem State.respond_draws (s : State) (st : BitVec 8) (w h : BitVec 16) : (s.respond st w h).draws = s.draws := rfl

@[simp] theorem State.goto_black (s : State) (q : Sequencer) : (s.goto q).black = s.black := rfl
@[simp] theorem State.goto_red (s : State) (q : Sequencer) : (s.goto q).red = s.red := rfl
@[simp] theorem State.goto_rst (s : State) (q : Sequencer) : (s.goto q).rst = s.rst := rfl
@[simp] theorem State.goto_cs (s : State) (q : Sequencer) : (s.goto q).cs = s.cs := rfl
@[simp] theorem State.goto_dc (s : State) (q : Sequencer) : (s.goto q).dc = s.dc := rfl
@[simp] theorem State.goto_life (s : State) (q : Sequencer) : (s.goto q).life = s.life := rfl
@[simp] theorem State.goto_seq (s : State) (q : Sequencer) : (s.goto q).seq = q := rfl
@[simp] theorem State.goto_op (s : State) (q : Sequencer) : (s.goto q).op = s.op := rfl
@[simp] theorem State.goto_color (s : State) (q : Sequencer) : (s.goto q).color = s.color := rfl
@[simp] theorem State.goto_y (s : State) (q : Sequencer) : (s.goto q).y = s.y := rfl
@[simp] theorem State.goto_x (s : State) (q : Sequencer) : (s.goto q).x = s.x := rfl
@[simp] theorem State.goto_trace (s : State) (q : Sequencer) : (s.goto q).trace = s.trace := rfl
@[simp] theorem State.goto_hostWords (s : State) (q : Sequencer) : (s.goto q).hostWords = s.hostWords := rfl
@[simp] theorem State.goto_resetPin (s : State) (q : Sequencer) : (s.goto q).resetPin = s.resetPin := rfl
@[simp] theorem State.goto_responses (s : State) (q : Sequencer) : (s.goto q).responses = s.responses := rfl
@[simp] theorem State.goto_draws (s : State) (q : Sequencer) : (s.goto q).draws = s.draws := rfl

@[simp] theorem State.assertReset_black (s : State) : (s.assertReset).black = s.black := rfl
@[simp] theorem State.assertReset_red (s : State) : (s.assertReset).red = s.red := rfl
@[simp] theorem State.assertReset_rst (s : State) : (s.assertReset).rst = s.rst := rfl
@[simp] theorem State.assertReset_cs (s : State) : (s.assertReset).cs = s.cs := rfl
@[simp] theorem State.assertReset_dc (s : State) : (s.assertReset).dc = s.dc := rfl
@[simp] theorem State.assertReset_life (s : State) : (s.assertReset).life = s.life := rfl
@[simp] theorem State.assertReset_seq (s : State) : (s.assertReset).seq = s.seq := rfl
@[simp] theorem State.assertReset_op (s : State) : (s.assertReset).op = s.op := rfl
@[simp] theorem State.assertReset_color (s : State) : (s.assertReset).color = s.color := rfl
@[simp] theorem State.assertReset_y (s : State) : (s.assertReset).y = s.y := rfl
@[simp] theorem State.assertReset_x (s : State) : (s.assertReset).x = s.x := rfl
@[simp] theorem State.assertReset_trace (s : State) : (s.assertReset).trace = s.trace := rfl
@[simp] theorem State.assertReset_hostWords (s : State) : (s.assertReset).hostWords = s.hostWords := rfl
@[simp] theorem State.assertReset_resetPin (s : State) : (s.assertReset).resetPin = true := rfl
@[simp] theorem State.assertReset_responses (s : State) : (s.assertReset).responses = s.responses := rfl
@[simp] theorem State.assertReset_draws (s : State) : (s.assertReset).draws = s.draws := rfl

@[simp] theorem State.present_black (s : State) (w : Word) : (s.present w).black = s.black := rfl
@[simp] theorem State.present_red (s : State) (w : Word) : (s.present w).red = s.red := rfl
@[simp] theorem State.present_rst (s : State) (w : Word) : (s.present w).rst = s.rst := rfl
@[simp] theorem State.present_cs (s : State) (w : Word) : (s.present w).cs = s.cs := rfl
@[simp] theorem State.present_dc (s : State) (w : Word) : (s.present w).dc = s.dc := rfl
@[simp] theorem State.present_life (s : State) (w : Word) : (s.present w).life = s.life := rfl
@[simp] theorem State.present_seq (s : State) (w : Word) : (s.present w).seq = s.seq := rfl
@[simp] theorem State.present_op (s : State) (w : Word) : (s.present w).op = s.op := rfl
@[simp] theorem State.present_color (s : State) (w : Word) : (s.present w).color = s.color := rfl
@[simp] theorem State.present_y (s : State) (w : Word) : (s.present w).y = s.y := rfl
@[simp] theorem State.present_x (s : State) (w : Word) : (s.present w).x = s.x := rfl
@[simp] theorem State.present_trace (s : State) (w : Word) : (s.present w).trace = s.trace := rfl
@[simp] theorem State.present_hostWords (s : State) (w : Word) : (s.present w).hostWords = s.hostWords ++ [w] := rfl
@[simp] theorem State.present_resetPin (s : State) (w : Word) : (s.present w).resetPin = s.resetPin := rfl
@[simp] theorem State.present_responses (s : State) (w : Word) : (s.present w).responses = s.responses := rfl
@[simp] theorem State.present_draws (s : State) (w : Word) : (s.present w).draws = s.draws := rfl

@[simp] theorem State.pop_black (s : State) (ws : List Word) : (s.pop ws).black = s.black := rfl
@[simp] theorem State.pop_red (s : State) (ws : List Word) : (s.pop ws).red = s.red := rfl
@[simp] theorem State.pop_rst (s : State) (ws : List Word) : (s.pop ws).rst = s.rst := rfl
@[simp] theorem State.pop_cs (s : State) (ws : List Word) : (s.pop ws).cs = s.cs := rfl
@[simp] theorem State.pop_dc (s : State) (ws : List Word) : (s.pop ws).dc = s.dc := rfl
@[simp] theorem State.pop_life (s : State) (ws : List Word) : (s.pop ws).life = s.life := rfl
@[simp] theorem State.pop_seq (s : State) (ws : List Word) : (s.pop ws).seq = s.seq := rfl
@[simp] theorem State.pop_op (s : State) (ws : List Word) : (s.pop ws).op = s.op := rfl
@[simp] theorem State.pop_color (s : State) (ws : List Word) : (s.pop ws).color = s.color := rfl
@[simp] theorem State.pop_y (s : State) (ws : List Word) : (s.pop ws).y = s.y := rfl
@[simp] theorem State.pop_x (s : State) (ws : List Word) : (s.pop ws).x = s.x := rfl
@[simp] theorem State.pop_trace (s : State) (ws : List Word) : (s.pop ws).trace = s.trace := rfl
@[simp] theorem State.pop_hostWords (s : State) (ws : List Word) : (s.pop ws).hostWords = ws := rfl
@[simp] theorem State.pop_resetPin (s : State) (ws : List Word) : (s.pop ws).resetPin = s.resetPin := rfl
@[simp] theorem State.pop_responses (s : State) (ws : List Word) : (s.pop ws).responses = s.responses := rfl
@[simp] theorem State.pop_draws (s : State) (ws : List Word) : (s.pop ws).draws = s.draws := rfl

@[simp] theorem State.setLine_black (s : State) (w : Line) (l : Level) : (s.setLine w l).black = s.black := by cases w <;> rfl
@[simp] theorem State.setLine_red (s : State) (w : Line) (l : Level) : (s.setLine w l).red = s.red := by cases w <;> rfl
@[simp] theorem State.setLine_rst_rst (s : State) (l : Level) : (s.setLine .rst l).rst = LineReg.driven l := rfl
@[simp] theorem State.setLine_cs_rst (s : State) (l : Level) : (s.setLine .cs l).rst = s.rst := rfl
@[simp] theorem State.setLine_dc_rst (s : State) (l : Level) : (s.setLine .dc l).rst = s.rst := rfl
@[simp] theorem State.setLine_rst_cs (s : State) (l : Level) : (s.setLine .rst l).cs = s.cs := rfl
@[simp] theorem State.setLine_cs_cs (s : State) (l : Level) : (s.setLine .cs l).cs = LineReg.driven l := rfl
@[simp] theorem State.setLine_dc_cs (s : State) (l : Level) : (s.setLine .dc l).cs = s.cs := rfl
@[simp] theorem State.setLine_rst_dc (s : State) (l : Level) : (s.setLine .rst l).dc = s.dc := rfl
@[simp] theorem State.setLine_cs_dc (s : State) (l : Level) : (s.setLine .cs l).dc = s.dc := rfl
@[simp] theorem State.setLine_dc_dc (s : State) (l : Level) : (s.setLine .dc l).dc = LineReg.driven l := rfl
@[simp] theorem State.setLine_life (s : State) (w : Line) (l : Level) : (s.setLine w l).life = s.life := by cases w <;> rfl
@[simp] theorem State.setLine_seq (s : State) (w : Line) (l : Level) : (s.setLine w l).seq = s.seq := by cases w <;> rfl
@[simp] theorem State.setLine_op (s : State) (w : Line) (l : Level) : (s.setLine w l).op = s.op := by cases w <;> rfl
@[simp] theorem State.setLine_color (s : State) (w : Line) (l : Level) : (s.setLine w l).color = s.color := by cases w <;> rfl
@[simp] theorem State.setLine_y (s : State) (w : Line) (l : Level) : (s.setLine w l).y = s.y := by cases w <;> rfl
@[simp] theorem State.setLine_x (s : State) (w : Line) (l : Level) : (s.setLine w l).x = s.x := by cases w <;> rfl
@[simp] theorem State.setLine_trace (s : State) (w : Line) (l : Level) : (s.setLine w l).trace = s.trace := by cases w <;> rfl
@[simp] theorem State.setLine_hostWords (s : State) (w : Line) (l : Level) : (s.setLine w l).hostWords = s.hostWords := by cases w <;> rfl
@[simp] theorem State.setLine_resetPin (s : State) (w : Line) (l : Level) : (s.setLine w l).resetPin = s.resetPin := by cases w <;> rfl
@[simp] theorem State.setLine_responses (s : State) (w : Line) (l : Level) : (s.setLine w l).responses = s.responses := by cases w <;> rfl
@[simp] theorem State.setLine_draws (s : State) (w : Line) (l : Level) : (s.setLine w l).draws = s.draws := by cases w <;> rfl

@[simp] theorem State.lineReg_rst (s : State) : s.lineReg .rst = s.rst := rfl
@[simp] theorem State.lineReg_cs (s : State) : s.lineReg .cs = s.cs := rfl
@[simp] theorem State.lineReg_dc (s : State) : s.lineReg .dc = s.dc := rfl

/-- A drive sets the register of its own line and no other. -/
theorem State.lineReg_setLine (s : State) (w v : Line) (l : Level) :
    (s.setLine w l).lineReg v = if w = v then .driven l else s.lineReg v := by
  cases w <;> cases v <;> rfl

@[simp] theorem State.blockReset_hostWords (s : State) : s.blockReset.hostWords = s.hostWords := rfl
@[simp] theorem State.blockReset_draws (s : State) : s.blockReset.draws = s.draws := rfl
@[simp] theorem State.blockReset_resetPin (s : State) : s.blockReset.resetPin = false := rfl
@[simp] theorem State.blockReset_seq (s : State) : s.blockReset.seq = .idle := rfl
@[simp] theorem State.blockReset_life (s : State) : s.blockReset.life = .uninit := rfl
@[simp] theorem State.blockReset_black (s : State) : s.blockReset.black = [] := rfl
@[simp] theorem State.blockReset_red (s : State) : s.blockReset.red = [] := rfl
@[simp] theorem State.blockReset_trace (s : State) : s.blockReset.trace = [] := rfl
@[simp] theorem State.blockReset_responses (s : State) : s.blockReset.responses = [] := rfl
@[simp] theorem State.blockReset_lineReg (s : State) (w : Line) : s.blockReset.lineReg w = .notYetDriven := by
  cases w <;> rfl

end Sys2Proof.Machine
end

