-- ==== Sys2Proof/Laws/Ops.lean ====
section
/-! SUPPORT. What each shared operation can do, said once: a primitive action, the sequencer's advance, the issue of a
panel command, an exception, a busy sample, the plane updates of WRPIX, the fetch and the step. -/

namespace Sys2Proof.Machine

/-! ### Primitive actions -/

@[simp] theorem State.perform_drive (s : State) (w : Line) (l : Level) :
    s.perform (.drive w l) = (s.setLine w l).log (.line w l) := rfl
@[simp] theorem State.perform_write (s : State) (bytes : List Byte) :
    s.perform (.write bytes) = (s.draw).log (.write bytes) := rfl
@[simp] theorem State.perform_delay (s : State) (ms : Nat) : s.perform (.delay ms) = s.log (.delay ms) := rfl

/-- A primitive action leaves the place of the sequencer, the planes, the latches, the flag and the host port alone. -/
theorem State.perform_frame (s : State) (a : Action) :
    (s.perform a).seq = s.seq ∧ (s.perform a).life = s.life ∧ (s.perform a).black = s.black ∧
    (s.perform a).red = s.red ∧ (s.perform a).op = s.op ∧ (s.perform a).color = s.color ∧ (s.perform a).y = s.y ∧
    (s.perform a).x = s.x ∧ (s.perform a).hostWords = s.hostWords ∧ (s.perform a).resetPin = s.resetPin ∧
    (s.perform a).responses = s.responses := by
  cases a with
  | drive w l => cases w <;> simp
  | write bytes => simp
  | delay ms => simp

/-! ### The sequencer -/

theorem State.advance_init {s : State} {k : Fin 51} (h : s.seq = .init k) (hk : k.val < 50) :
    s.advance = s.goto (.init ⟨k.val + 1, by omega⟩) := by
  simp only [State.advance, h]
  rw [dif_pos (by omega : k.val + 1 < 51)]

theorem State.advance_init_last {s : State} {k : Fin 51} (h : s.seq = .init k) (hk : ¬ k.val < 50) :
    s.advance = ({ s with life := .ready }.goto .idle).respond 0#8 0#16 0#16 := by
  simp only [State.advance, h]
  rw [dif_neg (by omega : ¬ k.val + 1 < 51)]

theorem State.advance_rfsh {s : State} {k : Fin 16} (h : s.seq = .rfsh k) (hk : k.val < 15) :
    s.advance = s.goto (.rfsh ⟨k.val + 1, by omega⟩) := by
  simp only [State.advance, h]
  rw [dif_pos (by omega : k.val + 1 < 16)]

theorem State.advance_rfsh_last {s : State} {k : Fin 16} (h : s.seq = .rfsh k) (hk : ¬ k.val < 15) :
    s.advance = s.goto .poll := by
  simp only [State.advance, h]
  rw [dif_neg (by omega : ¬ k.val + 1 < 16)]

/-- The sequencer's advance leaves the planes, the lines, the latches, the trace and the input side of the port alone. -/
theorem State.advance_frame (s : State) :
    s.advance.black = s.black ∧ s.advance.red = s.red ∧ s.advance.rst = s.rst ∧ s.advance.cs = s.cs ∧
    s.advance.dc = s.dc ∧ s.advance.op = s.op ∧ s.advance.color = s.color ∧ s.advance.y = s.y ∧ s.advance.x = s.x ∧
    s.advance.trace = s.trace ∧ s.advance.hostWords = s.hostWords ∧ s.advance.resetPin = s.resetPin ∧
    s.advance.draws = s.draws := by
  unfold State.advance
  split <;> (try split) <;> simp

/-- The issue of a panel command: at offset `j` of its frame the `j`-th action of its envelope, else a refusal. -/
theorem issueCmd_eq {first : Sequencer} {c : Byte} {p : List Byte} {s : State} {j : Nat} {a : Action}
    (hj : first.offset s.seq = some j) (ha : (cmdActions c p)[j]? = some a) :
    issueCmd first c p s = .next (s.act a) := by
  simp [issueCmd, hj, ha]

theorem issueCmd_next {first : Sequencer} {c : Byte} {p : List Byte} {s t : State}
    (h : issueCmd first c p s = .next t) :
    ∃ j a, first.offset s.seq = some j ∧ (cmdActions c p)[j]? = some a ∧ t = s.act a := by
  unfold issueCmd at h
  split at h
  · next a ha =>
    obtain ⟨j, hj, hja⟩ := Option.bind_eq_some_iff.1 ha
    injection h with h
    exact ⟨j, a, hj, hja, h.symm⟩
  · cases h

/-! ### Exceptions and samples -/

/-- A refusal of a request (causes 4 to 7) is one response and nothing else (R221). -/
theorem State.raise_notReady (s : State) : s.raise .notReady = s.respond 7#8 0#16 0#16 := rfl
theorem State.raise_illegalOperation (s : State) : s.raise .illegalOperation = s.respond 5#8 0#16 0#16 := rfl
theorem State.raise_illegalColorCode (s : State) : s.raise .illegalColorCode = s.respond 6#8 0#16 0#16 := rfl
theorem State.raise_outOfRange (s : State) : s.raise .outOfRange = s.respond 4#8 0#16 0#16 := rfl
theorem State.raise_busyReadFailure (s : State) : s.raise .busyReadFailure = (s.respond 2#8 0#16 0#16).goto .halt := rfl

/-- A busy sample touches the trace, the sequencer, the responses and the count of draws, and nothing else. -/
theorem State.sampled_frame (s : State) (a : BusyAnswer) :
    (s.sampled a).black = s.black ∧ (s.sampled a).red = s.red ∧ (s.sampled a).rst = s.rst ∧ (s.sampled a).cs = s.cs ∧
    (s.sampled a).dc = s.dc ∧ (s.sampled a).life = s.life ∧ (s.sampled a).op = s.op ∧ (s.sampled a).color = s.color ∧
    (s.sampled a).y = s.y ∧ (s.sampled a).x = s.x ∧ (s.sampled a).hostWords = s.hostWords ∧
    (s.sampled a).resetPin = s.resetPin ∧ (s.sampled a).draws = s.draws + 1 ∧
    (s.sampled a).trace = s.trace ++ [.busy a] := by
  cases a <;> simp [State.sampled, State.raise_busyReadFailure]

theorem State.ifLife_pos {s : State} {need : Life} {run : Host.Outcome State Fault Refusal} (h : s.life = need) :
    s.ifLife need run = run := by
  simp [State.ifLife, State.lifeIs, h]

theorem State.ifLife_neg {s : State} {need : Life} {run : Host.Outcome State Fault Refusal} (h : s.life ≠ need) :
    s.ifLife need run = .next (s.raise .notReady) := by
  simp [State.ifLife, State.lifeIs, h]

/-! ### WRPIX -/

/-- The plane updates of WRPIX at an in-range coordinate: they always complete. -/
theorem paint_eq {c : Color} {x y : Nat} {s : State} (hx : x < 152) (hy : y < 152) :
    paint c x y s = .next (State.respond
      { s with
        black := Memory.write (byteIndex x y)
          (putBit (s.black.read (byteIndex x y)) (bitOffset x y) (blackBit c)) s.black,
        red := Memory.write (byteIndex x y)
          (putBit (s.red.read (byteIndex x y)) (bitOffset x y) (redBit c)) s.red }
      0#8 0#16 0#16) := by
  have hi := byteIndex_lt hx hy
  simp only [paint, plot_eq hi]

theorem outOfRange_eq_false {x y : Byte} : outOfRange x y = false ↔ x.toNat < 152 ∧ y.toNat < 152 := by
  rw [outOfRange, Bool.or_eq_false_iff, decide_eq_false_iff_not, decide_eq_false_iff_not, width_eq, height_eq]
  omega

theorem outOfRange_eq_true {x y : Byte} : outOfRange x y = true ↔ 152 ≤ x.toNat ∨ 152 ≤ y.toNat := by
  rw [outOfRange, Bool.or_eq_true, decide_eq_true_eq, decide_eq_true_eq]
  exact Iff.rfl

/-- What WRPIX past its lifecycle check can do: the two refusals, or the plane updates. -/
theorem writePixel_cases (s : State) :
    (colorOfCode s.color = none ∧ writePixel s = .next (s.respond 6#8 0#16 0#16)) ∨
    (∃ c, colorOfCode s.color = some c ∧ (152 ≤ s.x.toNat ∨ 152 ≤ s.y.toNat) ∧
      writePixel s = .next (s.respond 4#8 0#16 0#16)) ∨
    (∃ c, colorOfCode s.color = some c ∧ s.x.toNat < 152 ∧ s.y.toNat < 152 ∧
      writePixel s = paint c s.x.toNat s.y.toNat s) := by
  unfold writePixel
  cases hc : colorOfCode s.color with
  | none => exact .inl ⟨rfl, rfl⟩
  | some c =>
    cases hr : outOfRange s.x s.y with
    | true => exact .inr (.inl ⟨c, rfl, outOfRange_eq_true.1 hr, rfl⟩)
    | false =>
      have h := outOfRange_eq_false.1 hr
      exact .inr (.inr ⟨c, rfl, h.1, h.2, rfl⟩)

/-! ### The step -/

theorem step_reset {s : State} (h : s.resetPin = true) : step s = .next s.blockReset := by
  simp [step, h]

theorem step_fetch {s : State} (h : s.resetPin = false) :
    step s = match fetch s with
      | .run i t => exec i t
      | .settled t => .next t
      | .stopped f => .fault f := by
  unfold step
  rw [h]
  rfl

theorem step_waiting {s : State} (hr : s.resetPin = false) (h : s.seq = .idle) (hw : s.hostWords = []) :
    step s = .next s := by
  simp [step_fetch hr, fetch, h, hw]

theorem step_word {s : State} {w : Word} {ws : List Word} {i : Instr} (hr : s.resetPin = false) (h : s.seq = .idle)
    (hw : s.hostWords = w :: ws) (hd : decodeHost w = .ok i) : step s = exec i (s.pop ws) := by
  simp [step_fetch hr, fetch, h, hw, takeWord, hd]

theorem step_badWord {s : State} {w : Word} {ws : List Word} {e : DecodeError} (hr : s.resetPin = false)
    (h : s.seq = .idle) (hw : s.hostWords = w :: ws) (hd : decodeHost w = .error e) :
    step s = .next (State.respond ((s.pop ws).accept (opField w) (colorField w) (yField w) (xField w))
      5#8 0#16 0#16) := by
  simp [step_fetch hr, fetch, h, hw, takeWord, hd, State.raise_illegalOperation]

theorem step_halt {s : State} (hr : s.resetPin = false) (h : s.seq = .halt) : step s = .fault .halted := by
  simp [step_fetch hr, fetch, h]

theorem step_poll {s : State} (hr : s.resetPin = false) (h : s.seq = .poll) :
    step s = .next (s.sampled (Config.busyAnswer s.draws)) := by
  simp [step_fetch hr, fetch, h, exec, execRefresh]

end Sys2Proof.Machine
end

