-- ==== Sys2Proof/Laws/PerInstr.lean ====
section
/-! SUPPORT. The per-instruction family of LAWS.json: what is said of every instruction as syntax. -/

/-- The encoding of an instruction fits the bits spec/opcode_table.json gives its row (R81, R87). -/
def Sys2Proof.Laws.EncodingFits.Statement (i : Sys2Proof.Instr) : Prop :=
  (Sys2Proof.encode i).number < 2 ^ (Sys2Proof.encode i).bits

theorem Sys2Proof.Laws.EncodingFits.init : Sys2Proof.Laws.EncodingFits.Statement .init :=
  BitVec.isLt _
theorem Sys2Proof.Laws.EncodingFits.wrpix (color y x : Sys2Proof.Byte) :
    Sys2Proof.Laws.EncodingFits.Statement (.wrpix color y x) :=
  BitVec.isLt _
theorem Sys2Proof.Laws.EncodingFits.refresh : Sys2Proof.Laws.EncodingFits.Statement .refresh :=
  BitVec.isLt _
theorem Sys2Proof.Laws.EncodingFits.size : Sys2Proof.Laws.EncodingFits.Statement .size :=
  BitVec.isLt _
theorem Sys2Proof.Laws.EncodingFits.powerSetting : Sys2Proof.Laws.EncodingFits.Statement .powerSetting :=
  BitVec.isLt _
theorem Sys2Proof.Laws.EncodingFits.boosterSoftStart : Sys2Proof.Laws.EncodingFits.Statement .boosterSoftStart :=
  BitVec.isLt _
theorem Sys2Proof.Laws.EncodingFits.powerOn : Sys2Proof.Laws.EncodingFits.Statement .powerOn :=
  BitVec.isLt _
theorem Sys2Proof.Laws.EncodingFits.panelSetting : Sys2Proof.Laws.EncodingFits.Statement .panelSetting :=
  BitVec.isLt _
theorem Sys2Proof.Laws.EncodingFits.vcomDataInterval : Sys2Proof.Laws.EncodingFits.Statement .vcomDataInterval :=
  BitVec.isLt _
theorem Sys2Proof.Laws.EncodingFits.pllControl : Sys2Proof.Laws.EncodingFits.Statement .pllControl :=
  BitVec.isLt _
theorem Sys2Proof.Laws.EncodingFits.vcomDcSetting : Sys2Proof.Laws.EncodingFits.Statement .vcomDcSetting :=
  BitVec.isLt _
theorem Sys2Proof.Laws.EncodingFits.resolutionSetting : Sys2Proof.Laws.EncodingFits.Statement .resolutionSetting :=
  BitVec.isLt _
theorem Sys2Proof.Laws.EncodingFits.dataStart1 : Sys2Proof.Laws.EncodingFits.Statement .dataStart1 :=
  BitVec.isLt _
theorem Sys2Proof.Laws.EncodingFits.dataStart2 : Sys2Proof.Laws.EncodingFits.Statement .dataStart2 :=
  BitVec.isLt _
theorem Sys2Proof.Laws.EncodingFits.displayRefresh : Sys2Proof.Laws.EncodingFits.Statement .displayRefresh :=
  BitVec.isLt _
end

