-- ==== Sys2Proof/Laws/Step.lean ====
section
/-! SUPPORT. What a step can do, said once: at a place of an action list it is the action that stands there, whichever
instruction the place belongs to; from IDLE with a word it is one of the outcomes of `WordOutcome`. -/

namespace Sys2Proof.Machine

theorem execInit_init {s : State} {k : Fin 51} (h : s.seq = .init k) : execInit s = .next (s.act (initAction k)) := by
  unfold execInit
  rw [h]

theorem execRefresh_rfsh {s : State} {k : Fin 16} (h : s.seq = .rfsh k) :
    execRefresh s = .next (s.act (refreshAction s k)) := by
  unfold execRefresh
  rw [h]

/-- The instruction in progress at a place of the INIT list performs the action that stands there. -/
theorem exec_current_init {s : State} {k : Fin 51} (h : s.seq = .init k) :
    exec (current .init (.init k)) s = .next (s.act (initAction k)) := by
  fin_cases k <;>
  first
  | exact execInit_init h
  | exact issueCmd_eq (j := _) (by rw [h]; rfl) rfl

/-- The instruction in progress at a place of the REFRESH list performs the action that stands there. -/
theorem exec_current_rfsh {s : State} {k : Fin 16} (h : s.seq = .rfsh k) :
    exec (current .refresh (.rfsh k)) s = .next (s.act (refreshAction s k)) := by
  fin_cases k <;> exact issueCmd_eq (j := _) (by rw [h]; rfl) rfl

theorem step_init {s : State} {k : Fin 51} (hr : s.resetPin = false) (h : s.seq = .init k) :
    step s = .next (s.act (initAction k)) := by
  simpa [step_fetch hr, fetch, h] using exec_current_init h

theorem step_rfsh {s : State} {k : Fin 16} (hr : s.resetPin = false) (h : s.seq = .rfsh k) :
    step s = .next (s.act (refreshAction s k)) := by
  simpa [step_fetch hr, fetch, h] using exec_current_rfsh h

/-- The state after a successful WRPIX of the color `c` at an in-range `(x, y)`. -/
def State.painted (s : State) (c : Color) (x y : Nat) : State :=
  State.respond
    { s with
      black := Memory.write (byteIndex x y)
        (putBit (s.black.read (byteIndex x y)) (bitOffset x y) (blackBit c)) s.black,
      red := Memory.write (byteIndex x y)
        (putBit (s.red.read (byteIndex x y)) (bitOffset x y) (redBit c)) s.red }
    0#8 0#16 0#16

theorem paint_painted {c : Color} {x y : Nat} {s : State} (hx : x < 152) (hy : y < 152) :
    paint c x y s = .next (s.painted c x y) :=
  paint_eq hx hy

/-- The acceptance of the host word `w`: its four fields in the latches (R27). -/
def State.latched (s : State) (w : Word) : State := s.accept (opField w) (colorField w) (yField w) (xField w)

/-- What an idle block can do with the host word `w`. -/
inductive WordOutcome (w : Word) (s t : State) : Prop where
  | refusal (code : BitVec 8) (hc : code = 4#8 ∨ code = 5#8 ∨ code = 6#8 ∨ code = 7#8)
      (ht : t = (s.latched w).respond code 0#16 0#16)
  | initStarts (ho : opField w = HostOp.init) (hl : s.life = .uninit) (ht : t = (s.latched w).goto (.init 0))
  | refreshStarts (ho : opField w = HostOp.refresh) (hl : s.life = .ready) (ht : t = (s.latched w).goto (.rfsh 0))
  | sizeAnswers (ho : opField w = HostOp.size) (hz : reservedZero w = true) (hl : s.life = .ready)
      (ht : t = (s.latched w).respond 0#8 152#16 152#16)
  | pixel (ho : opField w = HostOp.wrpix) (col : Color) (hl : s.life = .ready) (hc : colorOfCode (colorField w) = some col)
      (hx : (xField w).toNat < 152) (hy : (yField w).toNat < 152)
      (ht : t = (s.latched w).painted col (xField w).toNat (yField w).toNat)

/-- A word that is taken fills the latches, and leaves the lines, the flag, the trace and the waiting words alone. -/
theorem WordOutcome.frame {w : Word} {s t : State} (h : WordOutcome w s t) :
    t.op = opField w ∧ t.color = colorField w ∧ t.y = yField w ∧ t.x = xField w ∧ t.hostWords = s.hostWords ∧
    t.life = s.life ∧ t.trace = s.trace ∧ t.rst = s.rst ∧ t.cs = s.cs ∧ t.dc = s.dc ∧ t.draws = s.draws ∧
    t.resetPin = s.resetPin := by
  cases h <;> subst t <;> simp [State.latched, State.painted]

/-- Unless the word was a WRPIX that painted, the planes stay. -/
theorem WordOutcome.planes {w : Word} {s t : State} (h : WordOutcome w s t) (ho : opField w ≠ HostOp.wrpix) :
    t.black = s.black ∧ t.red = s.red := by
  cases h with
  | pixel h _ _ _ _ _ _ => exact absurd h ho
  | _ => subst t; simp [State.latched]

/-- WRPIX from IDLE. -/
theorem execWrpix_idle {s : State} {c y x : Byte} (h : s.seq = .idle) :
    execWrpix c y x s = (s.accept HostOp.wrpix c y x).ifLife .ready (writePixel (s.accept HostOp.wrpix c y x)) := by
  unfold execWrpix
  rw [h]

theorem execInit_idle {s : State} (h : s.seq = .idle) :
    execInit s = (s.accept HostOp.init 0#8 0#8 0#8).ifLife .uninit
      (.next ((s.accept HostOp.init 0#8 0#8 0#8).goto (.init 0))) := by
  unfold execInit
  rw [h]

theorem execRefresh_idle {s : State} (h : s.seq = .idle) :
    execRefresh s = (s.accept HostOp.refresh 0#8 0#8 0#8).ifLife .ready
      (.next ((s.accept HostOp.refresh 0#8 0#8 0#8).goto (.rfsh 0))) := by
  unfold execRefresh
  rw [h]

theorem execSize_idle {s : State} (h : s.seq = .idle) :
    execSize s = (s.accept HostOp.size 0#8 0#8 0#8).ifLife .ready
      (.next ((s.accept HostOp.size 0#8 0#8 0#8).respond 0#8 152#16 152#16)) := by
  unfold execSize
  rw [h]
  rfl

/-- `ifLife` answers a next state when its run does; which one depends on the flag. -/
theorem State.ifLife_cases (s : State) (need : Life) (run : Host.Outcome State Fault Refusal) :
    (s.life = need ∧ s.ifLife need run = run) ∨
    (s.life ≠ need ∧ s.ifLife need run = .next (s.respond 7#8 0#16 0#16)) := by
  by_cases h : s.life = need
  · exact .inl ⟨h, State.ifLife_pos h⟩
  · exact .inr ⟨h, State.ifLife_neg h⟩

/-- A word whose reserved bits are zero has three zero fields. -/
theorem fields_of_reservedZero {w : Word} (h : reservedZero w = true) :
    colorField w = 0#8 ∧ yField w = 0#8 ∧ xField w = 0#8 := by
  have h0 := (reservedZero_iff w).1 h
  refine ⟨?_, ?_, ?_⟩ <;> apply BitVec.eq_of_toNat_eq
  · rw [colorField_toNat]
    simp
    omega
  · rw [yField_toNat]
    simp
    omega
  · rw [xField_toNat]
    simp
    omega

/-- The acceptance of a word with an operation code and zero reserved bits. -/
theorem State.latched_of_reservedZero {s : State} {w : Word} {o : Byte} (ho : opField w = o)
    (hz : reservedZero w = true) : s.latched w = s.accept o 0#8 0#8 0#8 := by
  obtain ⟨h1, h2, h3⟩ := fields_of_reservedZero hz
  rw [State.latched, ho, h1, h2, h3]

theorem execWrpix_outcome {s : State} {w : Word} (h : s.seq = .idle) (ho : opField w = HostOp.wrpix) :
    ∃ t, execWrpix (colorField w) (yField w) (xField w) s = .next t ∧ WordOutcome w s t := by
  rw [execWrpix_idle h, ← ho]
  rcases State.ifLife_cases (s.latched w) .ready (writePixel (s.latched w)) with ⟨hl, he⟩ | ⟨_, he⟩
  · refine Exists.imp (fun t ht => ⟨he.trans ht.1, ht.2⟩) (?_ : ∃ t, writePixel (s.latched w) = .next t ∧ _)
    rcases writePixel_cases (s.latched w) with ⟨_, hw⟩ | ⟨_, _, _, hw⟩ | ⟨col, hc, hx, hy, hw⟩
    · exact ⟨_, hw, .refusal 6#8 (by simp) rfl⟩
    · exact ⟨_, hw, .refusal 4#8 (by simp) rfl⟩
    · exact ⟨_, hw.trans (paint_painted hx hy), .pixel ho col hl hc hx hy rfl⟩
  · exact ⟨_, he, .refusal 7#8 (by simp) rfl⟩

theorem execInit_outcome {s : State} {w : Word} (h : s.seq = .idle) (ho : opField w = HostOp.init)
    (hz : reservedZero w = true) : ∃ t, execInit s = .next t ∧ WordOutcome w s t := by
  rw [execInit_idle h, ← State.latched_of_reservedZero ho hz]
  rcases State.ifLife_cases (s.latched w) .uninit (.next ((s.latched w).goto (.init 0))) with ⟨hl, he⟩ | ⟨_, he⟩
  · exact ⟨_, he, .initStarts ho hl rfl⟩
  · exact ⟨_, he, .refusal 7#8 (by simp) rfl⟩

theorem execRefresh_outcome {s : State} {w : Word} (h : s.seq = .idle) (ho : opField w = HostOp.refresh)
    (hz : reservedZero w = true) : ∃ t, execRefresh s = .next t ∧ WordOutcome w s t := by
  rw [execRefresh_idle h, ← State.latched_of_reservedZero ho hz]
  rcases State.ifLife_cases (s.latched w) .ready (.next ((s.latched w).goto (.rfsh 0))) with ⟨hl, he⟩ | ⟨_, he⟩
  · exact ⟨_, he, .refreshStarts ho hl rfl⟩
  · exact ⟨_, he, .refusal 7#8 (by simp) rfl⟩

theorem execSize_outcome {s : State} {w : Word} (h : s.seq = .idle) (ho : opField w = HostOp.size)
    (hz : reservedZero w = true) : ∃ t, execSize s = .next t ∧ WordOutcome w s t := by
  rw [execSize_idle h, ← State.latched_of_reservedZero ho hz]
  rcases State.ifLife_cases (s.latched w) .ready (.next ((s.latched w).respond 0#8 152#16 152#16)) with
    ⟨hl, he⟩ | ⟨_, he⟩
  · exact ⟨_, he, .sizeAnswers ho hz hl rfl⟩
  · exact ⟨_, he, .refusal 7#8 (by simp) rfl⟩

/-- The host decoder gives one of the four host operations, each only for its own code. -/
theorem decodeHost_cases {w : Word} {i : Instr} (h : decodeHost w = .ok i) :
    (opField w = HostOp.init ∧ reservedZero w = true ∧ i = .init) ∨
    (opField w = HostOp.refresh ∧ reservedZero w = true ∧ i = .refresh) ∨
    (opField w = HostOp.size ∧ reservedZero w = true ∧ i = .size) ∨
    (opField w = HostOp.wrpix ∧ i = .wrpix (colorField w) (yField w) (xField w)) := by
  unfold decodeHost at h
  split at h
  · next ho =>
    injection h with h
    exact .inr (.inr (.inr ⟨ho, h.symm⟩))
  · split at h
    · next hz =>
      split at h
      · next ho =>
        injection h with h
        exact .inl ⟨ho, hz, h.symm⟩
      · split at h
        · next ho =>
          injection h with h
          exact .inr (.inl ⟨ho, hz, h.symm⟩)
        · split at h
          · next ho =>
            injection h with h
            exact .inr (.inr (.inl ⟨ho, hz, h.symm⟩))
          · cases h
    · cases h

/-- What a step of an idle block with a word on its port can do. -/
theorem step_word_outcome {s : State} {w : Word} {ws : List Word} (hr : s.resetPin = false) (h : s.seq = .idle)
    (hw : s.hostWords = w :: ws) : ∃ t, step s = .next t ∧ WordOutcome w (s.pop ws) t := by
  cases hd : decodeHost w with
  | error e => exact ⟨_, step_badWord hr h hw hd, .refusal 5#8 (by simp) rfl⟩
  | ok i =>
    rw [step_word hr h hw hd]
    rcases decodeHost_cases hd with ⟨ho, hz, rfl⟩ | ⟨ho, hz, rfl⟩ | ⟨ho, hz, rfl⟩ | ⟨ho, rfl⟩
    · exact execInit_outcome h ho hz
    · exact execRefresh_outcome h ho hz
    · exact execSize_outcome h ho hz
    · exact execWrpix_outcome h ho

/-- Everything a step can do, block reset apart. -/
theorem step_next_cases {s t : State} (hr : s.resetPin = false) (ht : step s = .next t) :
    (s.seq = .idle ∧ s.hostWords = [] ∧ t = s) ∨
    (∃ w ws, s.seq = .idle ∧ s.hostWords = w :: ws ∧ WordOutcome w (s.pop ws) t) ∨
    (∃ k, s.seq = .init k ∧ t = s.act (initAction k)) ∨
    (∃ k, s.seq = .rfsh k ∧ t = s.act (refreshAction s k)) ∨
    (s.seq = .poll ∧ t = s.sampled (Config.busyAnswer s.draws)) := by
  cases h : s.seq with
  | idle =>
    cases hw : s.hostWords with
    | nil =>
      rw [step_waiting hr h hw] at ht
      injection ht with ht
      exact .inl ⟨rfl, rfl, ht.symm⟩
    | cons w ws =>
      obtain ⟨u, hu, ho⟩ := step_word_outcome hr h hw
      rw [hu] at ht
      injection ht with ht
      exact .inr (.inl ⟨w, ws, rfl, rfl, ht ▸ ho⟩)
  | init k =>
    rw [step_init hr h] at ht
    injection ht with ht
    exact .inr (.inr (.inl ⟨k, rfl, ht.symm⟩))
  | rfsh k =>
    rw [step_rfsh hr h] at ht
    injection ht with ht
    exact .inr (.inr (.inr (.inl ⟨k, rfl, ht.symm⟩)))
  | poll =>
    rw [step_poll hr h] at ht
    injection ht with ht
    exact .inr (.inr (.inr (.inr ⟨rfl, ht.symm⟩)))
  | halt =>
    rw [step_halt hr h] at ht
    cases ht

end Sys2Proof.Machine
end

