-- ==== Sys2Proof/Tests/Slice0.lean ====
section
/-! SUPPORT. The model's own tests. Expected values are the spec's (spec/95_test_vectors.md V1 to V10, T1 to T7; the tables
of R82, R87, R143, R161). Then, for every statement with hypotheses, a concrete state and operands that meet them. -/

namespace Sys2Proof.Tests

open Sys2Proof.Machine Sys2Proof.Claims

/-! ### Decoding: words written out from R82 and R87 -/

theorem test_decode_init : decodeTableWord 32 0b00000001000000000000000000000000 = some .init := by decide
/-- Color 2, row 100, column 75 (T2). -/
theorem test_decode_wrpix :
    decodeTableWord 32 0b00000010000000100110010001001011 = some (.wrpix 2#8 100#8 75#8) := by decide
theorem test_decode_refresh : decodeTableWord 32 0b00000011000000000000000000000000 = some .refresh := by decide
theorem test_decode_size : decodeTableWord 32 0b00000100000000000000000000000000 = some .size := by decide
theorem test_decode_panelSetting : decodeTableWord 8 0b00000000 = some .panelSetting := by decide
theorem test_decode_powerSetting : decodeTableWord 8 0b00000001 = some .powerSetting := by decide
theorem test_decode_powerOn : decodeTableWord 8 0b00000100 = some .powerOn := by decide
theorem test_decode_boosterSoftStart : decodeTableWord 8 0b00000110 = some .boosterSoftStart := by decide
theorem test_decode_dataStart1 : decodeTableWord 8 0b00010000 = some .dataStart1 := by decide
theorem test_decode_displayRefresh : decodeTableWord 8 0b00010010 = some .displayRefresh := by decide
theorem test_decode_dataStart2 : decodeTableWord 8 0b00010011 = some .dataStart2 := by decide
theorem test_decode_pllControl : decodeTableWord 8 0b00110000 = some .pllControl := by decide
theorem test_decode_vcomDataInterval : decodeTableWord 8 0b01010000 = some .vcomDataInterval := by decide
theorem test_decode_resolutionSetting : decodeTableWord 8 0b01100001 = some .resolutionSetting := by decide
theorem test_decode_vcomDcSetting : decodeTableWord 8 0b10000010 = some .vcomDcSetting := by decide
/-- R88: an unused code, and a reserved bit. -/
theorem test_decode_refuses : decodeHost 0x05000000#32 = .error .illegalOperation ∧
    decodeHost 0x01000100#32 = .error .illegalOperation ∧ decodePanel 0x02#8 = .error .unknownPanelOpcode := by decide

/-! ### WellFormed: an ill-formed term for each check -/

theorem test_wellFormed_accepts : (Instr.wrpix 2#8 151#8 151#8).wellFormed = true := by decide
theorem test_wellFormed_color : (Instr.wrpix 3#8 0#8 0#8).wellFormed = false := by decide
theorem test_wellFormed_row : (Instr.wrpix 0#8 152#8 0#8).wellFormed = false := by decide
theorem test_wellFormed_column : (Instr.wrpix 0#8 0#8 152#8).wellFormed = false := by decide

/-! ### Small states -/

/-- The state a step answers, if it answers one. -/
def outcome : Host.Outcome State Fault Refusal → Option State
  | .next s => some s
  | .fault _ => none
  | .refused _ => none

theorem exists_of_outcome {α : Type} {o : Host.Outcome State Fault Refusal} {f : State → α} {v : α}
    (h : (outcome o).map f = some v) : ∃ t, o = .next t ∧ f t = v := by
  cases o with
  | next t => exact ⟨t, rfl, by simpa [outcome] using h⟩
  | fault _ => cases h
  | refused _ => cases h

/-- The state when INIT has just completed (R38). -/
def ready : State :=
  { State.reset with
    rst := .driven .high, cs := .driven .high, dc := .driven .high, life := .ready, trace := initEvents }

/-- A ready block that has painted pixel (151, 151) Red (T2). -/
def painted : State := { ready with red := [(2887, 0xFE#8)] }

/-- `s` with one word on its port. -/
def offered (s : State) (w : Word) : State := { s with hostWords := [w] }

/-- A block at a place of INIT. -/
def atInit (k : Fin 51) : State := { State.reset with seq := .init k }

/-- A block at a place of REFRESH. -/
def atRfsh (k : Fin 16) : State := { ready with seq := .rfsh k }

/-- A block that polls after one sample that answered `high`. -/
def polling : State :=
  { ready with seq := .poll, dc := .driven .low, trace := initEvents ++ refreshEvents ready ++ [.busy .high] }

/-- A block before the first write of INIT, its lines as driven so far (R143). -/
def beforeWrite : State :=
  { State.reset with
    seq := .init 5, rst := .driven .high, cs := .driven .low, dc := .driven .low, trace := initEvents.take 5 }

/-! ### One step on a small state -/

/-- V1 and T1. -/
theorem test_coordinates : byteIndex 0 1 = 19 ∧ bitOffset 7 0 = 0 ∧ byteIndex 75 100 = 1909 ∧ bitOffset 75 100 = 4 ∧
    byteIndex 151 151 = 2887 ∧ bitOffset 151 151 = 0 ∧ mask (bitOffset 3 2) = 0x10#8 := by decide

/-- T2, `0202644B`. -/
theorem test_wrpix_red : (outcome (step (offered ready 0x0202644B#32))).map
    (fun t => (t.black, t.red, t.responses)) = some ([], [(1909, 0xEF#8)], [⟨0#8, 0#16, 0#16⟩]) := by decide

/-- T4, `02010098`: column 152 is refused although its linear index would be pixel (0, 1). -/
theorem test_wrpix_outOfRange : (outcome (step (offered ready 0x02010098#32))).map
    (fun t => (t.black, t.red, t.responses)) = some ([], [], [⟨4#8, 0#16, 0#16⟩]) := by decide

/-- T4, `0203FFFF`: the color code is checked before the range. -/
theorem test_wrpix_color_first : (outcome (step (offered ready 0x0203FFFF#32))).map
    (fun t => t.responses) = some [⟨6#8, 0#16, 0#16⟩] := by decide

/-- T4, `FF000000` before INIT: IllegalOperation is checked before NotReady. -/
theorem test_illegal_first : (outcome (step (offered State.reset 0xFF000000#32))).map
    (fun t => t.responses) = some [⟨5#8, 0#16, 0#16⟩] := by decide

/-- T4, SIZE after INIT. -/
theorem test_size : (outcome (step (offered ready 0x04000000#32))).map
    (fun t => (t.responses, t.trace.length)) = some ([⟨0#8, 152#16, 152#16⟩], 51) := by decide

/-- T4, SIZE before INIT. -/
theorem test_size_notReady : (outcome (step (offered State.reset 0x04000000#32))).map
    (fun t => t.responses) = some [⟨7#8, 0#16, 0#16⟩] := by decide

/-- R140: the acceptance of INIT. -/
theorem test_init_accepted : (outcome (step (offered State.reset 0x01000000#32))).map
    (fun t => (t.seq, t.life, t.trace)) = some (.init 0, .uninit, []) := by decide

/-- R145: action 50. -/
theorem test_init_completes : (outcome (step (atInit 50))).map
    (fun t => (t.seq, t.life, t.trace, t.responses)) =
      some (.idle, .ready, [.line .cs .high], [⟨0#8, 0#16, 0#16⟩]) := by decide

/-- R161: the acceptance of REFRESH. -/
theorem test_refresh_accepted : (outcome (step (offered ready 0x03000000#32))).map
    (fun t => (t.seq, t.trace.length, t.responses)) = some (.rfsh 0, 51, []) := by decide

/-- R161: action 15. -/
theorem test_refresh_polls : (outcome (step (atRfsh 15))).map
    (fun t => (t.seq, t.cs, t.responses)) = some (.poll, .driven .high, []) := by decide

/-- T5: the second write of each command of INIT, or its only one, and the place after it. -/
theorem test_powerSetting : (outcome (exec .powerSetting (atInit 7))).map (fun t => (t.trace, t.seq)) =
    some ([.write [0x03#8, 0x00#8, 0x2B#8, 0x2B#8, 0x09#8]], .init 8) := by decide
theorem test_boosterSoftStart : (outcome (exec .boosterSoftStart (atInit 13))).map (fun t => (t.trace, t.seq)) =
    some ([.write [0x17#8, 0x17#8, 0x17#8]], .init 14) := by decide
theorem test_powerOn : (outcome (exec .powerOn (atInit 18))).map (fun t => (t.trace, t.seq)) =
    some ([.line .cs .high], .init 19) := by decide
theorem test_panelSetting : (outcome (exec .panelSetting (atInit 22))).map (fun t => (t.trace, t.seq)) =
    some ([.write [0x00#8]], .init 23) := by decide
theorem test_vcomDataInterval : (outcome (exec .vcomDataInterval (atInit 30))).map (fun t => (t.trace, t.seq)) =
    some ([.write [0x37#8]], .init 31) := by decide
theorem test_pllControl : (outcome (exec .pllControl (atInit 36))).map (fun t => (t.trace, t.seq)) =
    some ([.write [0x29#8]], .init 37) := by decide
theorem test_vcomDcSetting : (outcome (exec .vcomDcSetting (atInit 42))).map (fun t => (t.trace, t.seq)) =
    some ([.write [0x0A#8]], .init 43) := by decide
/-- T7. -/
theorem test_resolutionSetting : (outcome (exec .resolutionSetting (atInit 49))).map (fun t => (t.trace, t.seq)) =
    some ([.write [0x98#8, 0x00#8, 0x98#8]], .init 50) := by decide
/-- T7's comparison: a height of 300. -/
theorem test_resolution_bytes : resolutionBytes 152 300 = [0x98#8, 0x01#8, 0x2C#8] := by decide
theorem test_dataStart1_opcode : (outcome (exec .dataStart1 (atRfsh 2))).map (fun t => (t.trace.drop 51, t.seq)) =
    some ([.write [0x10#8]], .rfsh 3) := by decide
theorem test_dataStart2_opcode : (outcome (exec .dataStart2 (atRfsh 8))).map (fun t => (t.trace.drop 51, t.seq)) =
    some ([.write [0x13#8]], .rfsh 9) := by decide
theorem test_displayRefresh : (outcome (exec .displayRefresh (atRfsh 14))).map (fun t => (t.trace.drop 51, t.seq)) =
    some ([.write [0x12#8]], .rfsh 15) := by decide
/-- P1: the red plane after pixel (151, 151) was painted is sent with its last byte `FE`. -/
theorem test_plane_payload : painted.red.bytes.length = 2888 ∧ painted.red.bytes.getLast? = some 0xFE#8 := by
  constructor
  · rw [Memory.bytes_eq, List.length_map, List.length_range]
  · rw [Memory.bytes_eq, List.getLast?_map, List.getLast?_range]
    decide

/-! ### Witnesses: states and operands that meet the hypotheses of the statements -/

theorem witness_DecodedWordsEncodeBack :
    (∃ w i, decodeHost w = .ok i) ∧ (∃ b i, decodePanel b = .ok i) :=
  ⟨⟨0x02FFFFFF#32, .wrpix 0xFF#8 0xFF#8 0xFF#8, by decide⟩, ⟨0x82#8, .vcomDcSetting, by decide⟩⟩

/-- An unused code, the lowest and the highest reserved bit, and the legal words beside them; one opcode of each kind. -/
theorem witness_IllegalWordsAreExactlyThoseRefused :
    illegalWord 0x00FFFFFF#32 ∧ illegalWord 0x05000000#32 ∧ illegalWord 0x04000001#32 ∧ illegalWord 0x01800000#32 ∧
    ¬ illegalWord 0x01000000#32 ∧ ¬ illegalWord 0x02FFFFFF#32 ∧ ¬ illegalWord 0x04000000#32 ∧
    0x02#8 ∉ opcodes ∧ 0x82#8 ∈ opcodes := by
  refine ⟨?_, ?_, ?_, ?_, ?_, ?_, ?_, by decide, by decide⟩ <;> unfold illegalWord <;> decide

theorem witness_IdleStepRunsTheHostWord :
    (∃ (s : State) (w : Word) (ws : List Word) (i : Instr), s.resetPin = false ∧ s.seq = .idle ∧ s.hostWords = w :: ws ∧ decodeHost w = .ok i) ∧
    (∃ s : State, s.resetPin = false ∧ s.seq = .idle ∧ s.hostWords = []) :=
  ⟨⟨offered ready 0x02010000#32, 0x02010000#32, [], .wrpix 1#8 0#8 0#8, rfl, rfl, rfl, by decide⟩,
    ⟨ready, rfl, rfl, rfl⟩⟩

/-- The first and the last place of a list that lie in a frame, the first that does not, a delay, and POLL. -/
theorem witness_RunningStepRunsTheInstructionInProgress :
    ((atInit 3).resetPin = false ∧ issuedAt .powerSetting (atInit 3).seq) ∧
    ((atInit 50).resetPin = false ∧ issuedAt .resolutionSetting (atInit 50).seq) ∧
    ((atRfsh 0).resetPin = false ∧ issuedAt .dataStart1 (atRfsh 0).seq) ∧
    ((atRfsh 15).resetPin = false ∧ issuedAt .displayRefresh (atRfsh 15).seq) ∧
    ((atInit 0).resetPin = false ∧ (atInit 0).seq = .init 0 ∧ ¬ inSomeFrame (atInit 0).seq) ∧
    ((atInit 44).resetPin = false ∧ (atInit 44).seq = .init 44 ∧ ¬ inSomeFrame (atInit 44).seq) ∧
    (polling.resetPin = false ∧ polling.seq = .poll) := by
  refine ⟨⟨rfl, ?_⟩, ⟨rfl, ?_⟩, ⟨rfl, ?_⟩, ⟨rfl, ?_⟩, ⟨rfl, rfl, ?_⟩, ⟨rfl, rfl, ?_⟩, rfl, rfl⟩ <;>
    simp [issuedAt, inSomeFrame, atInit, atRfsh]

theorem witness_OperationsExpandToTheirCommands :
    ((atInit 18).seq = .init 18 ∧ issuedAt .powerOn (atInit 18).seq) ∧
    ((atRfsh 6).seq = .rfsh 6 ∧ issuedAt .dataStart2 (atRfsh 6).seq) := by
  refine ⟨⟨rfl, ?_⟩, ⟨rfl, ?_⟩⟩ <;> simp [issuedAt, atInit, atRfsh]

theorem witness_StepFaultsOnlyInHaltAndNeverRefuses :
    (∃ s : State, s.resetPin = false ∧ s.seq = .halt) ∧ (∃ s : State, s.resetPin = true ∧ s.seq = .halt) ∧
    (∃ s : State, s.resetPin = false ∧ s.seq ≠ .halt) :=
  ⟨⟨{ ready with seq := .halt }, rfl, rfl⟩, ⟨{ ready with seq := .halt, resetPin := true }, rfl, rfl⟩,
    ⟨ready, rfl, by decide⟩⟩

theorem witness_BusyBlockTakesNoWordAndKeepsItsPlanes :
    ∃ s : State, s.resetPin = false ∧ s.seq ≠ .idle ∧ s.seq ≠ .halt :=
  ⟨offered (atRfsh 4) 0x02010000#32, rfl, by decide, by decide⟩

/-- Each operation while another runs, and in HALT. -/
theorem witness_HostOperationsAreNotAcceptedOutsideIdle :
    (∃ s : State, s.seq ≠ .idle) ∧
    (∃ s : State, s.seq ≠ .idle ∧ ∀ k, s.seq ≠ .init k) ∧
    (∃ s : State, s.seq ≠ .idle ∧ (∀ k, s.seq ≠ .rfsh k) ∧ s.seq ≠ .poll) :=
  ⟨⟨polling, by simp [polling]⟩, ⟨atRfsh 0, by simp [atRfsh], by simp [atRfsh]⟩,
    ⟨atInit 0, by simp [atInit], by simp [atInit], by simp [atInit]⟩⟩

/-- The place before a frame and the place after it. -/
theorem witness_PanelCommandsAreIssuedOnlyInTheirFrames :
    .powerOn ∈ panelCommands ∧ ¬ issuedAt .powerOn (atInit 14).seq ∧ ¬ issuedAt .powerOn (atInit 19).seq ∧
    .dataStart1 ∈ panelCommands ∧ ¬ issuedAt .dataStart1 (atRfsh 6).seq := by
  refine ⟨by decide, ?_, ?_, by decide, ?_⟩ <;> simp [issuedAt, atInit, atRfsh]

theorem witness_ResetLeavesTheStatedValues : ∃ i : Nat, i < 2888 ∧ i = 2887 := ⟨2887, by decide, rfl⟩

theorem witness_BlockResetFromEveryState : ∃ s : State, s.resetPin = true ∧ s.seq = .halt :=
  ⟨{ painted with seq := .halt, resetPin := true }, rfl, rfl⟩

theorem witness_InitIsAcceptedOnlyBeforeItHasRun :
    (State.reset.seq = .idle ∧ State.reset.life = .uninit) ∧ (ready.seq = .idle ∧ ready.life = .ready) :=
  ⟨⟨rfl, rfl⟩, rfl, rfl⟩

theorem witness_InitPerformsItsActionList :
    ((atInit 0).seq = .init 0 ∧ initTable[(0 : Fin 51).val]? = some (.line .rst .low)) ∧
    ((atInit 50).seq = .init 50 ∧ initTable[(50 : Fin 51).val]? = some (.line .cs .high)) :=
  ⟨⟨rfl, rfl⟩, rfl, rfl⟩

theorem witness_WholeInitRuns : ∃ (s : State) (ws : List Word), s.resetPin = false ∧ s.seq = .idle ∧ s.life = .uninit ∧
    s.hostWords = 0x01000000#32 :: ws :=
  ⟨offered State.reset 0x01000000#32, [], rfl, rfl, rfl, rfl⟩

theorem witness_InitIssuesEightCommandsAndThreeDelays : ∃ (s : State) (ws : List Word), s.resetPin = false ∧
    s.seq = .idle ∧ s.life = .uninit ∧ s.hostWords = 0x01000000#32 :: ws :=
  ⟨{ State.reset with hostWords := [0x01000000#32, 0x04000000#32] }, [0x04000000#32], rfl, rfl, rfl, rfl⟩

theorem witness_RefreshIsAcceptedOnlyWhenReady :
    (painted.seq = .idle ∧ painted.life = .ready) ∧ (State.reset.seq = .idle ∧ State.reset.life = .uninit) :=
  ⟨⟨rfl, rfl⟩, rfl, rfl⟩

theorem witness_RefreshPerformsItsActionList :
    ((atRfsh 0).seq = .rfsh 0 ∧ (refreshTable (atRfsh 0))[(0 : Fin 16).val]? = some (.line .cs .low)) ∧
    ((atRfsh 4).seq = .rfsh 4 ∧
      (refreshTable (atRfsh 4))[(4 : Fin 16).val]? = some (.write (planeList (atRfsh 4).black))) ∧
    ((atRfsh 15).seq = .rfsh 15 ∧ (refreshTable (atRfsh 15))[(15 : Fin 16).val]? = some (.line .cs .high)) :=
  ⟨⟨rfl, rfl⟩, ⟨rfl, rfl⟩, rfl, rfl⟩

theorem witness_WholeRefreshRunsToTheBusyWait : ∃ (s : State) (ws : List Word), s.resetPin = false ∧ s.seq = .idle ∧
    s.life = .ready ∧ s.hostWords = 0x03000000#32 :: ws :=
  ⟨offered painted 0x03000000#32, [], rfl, rfl, rfl, rfl⟩

/-- Two blocks with the same planes and different lines, traces and waiting words (P3). -/
theorem witness_RefreshEventsDependOnlyOnThePlanes : ∃ (s₁ s₂ : State) (ws₁ ws₂ : List Word),
    (s₁.resetPin = false ∧ s₁.seq = .idle ∧ s₁.life = .ready ∧ s₁.hostWords = 0x03000000#32 :: ws₁) ∧
    (s₂.resetPin = false ∧ s₂.seq = .idle ∧ s₂.life = .ready ∧ s₂.hostWords = 0x03000000#32 :: ws₂) ∧
    s₁.dc ≠ s₂.dc ∧
    ∀ a, a < 2888 → s₁.black.read a = s₂.black.read a ∧ s₁.red.read a = s₂.red.read a :=
  ⟨offered painted 0x03000000#32,
    { painted with dc := .driven .low, trace := [], draws := 7, hostWords := [0x03000000#32, 0x04000000#32] },
    [], [0x04000000#32], ⟨rfl, rfl, rfl, rfl⟩, ⟨rfl, rfl, rfl, rfl⟩, by decide, fun _ _ => ⟨rfl, rfl⟩⟩

theorem witness_OneBusySampleHasThreeOutcomes : polling.seq = .poll := rfl

theorem witness_BusyWaitEndsAtTheFirstLow : ∃ (s : State) (n : Nat) (later : List BusyAnswer),
    s.seq = .poll ∧ n = 0 ∧ later = [.high] :=
  ⟨polling, 0, [.high], rfl, rfl, rfl⟩

theorem witness_BusyWaitHasNoTimeout : ∃ (s : State) (n : Nat), s.seq = .poll ∧ n = 1000 := ⟨polling, 1000, rfl, rfl⟩

theorem witness_BusyReadFailureHaltsTheBlock : polling.seq = .poll ∧ polling.resetPin = false := ⟨rfl, rfl⟩

theorem witness_InitCommandsPerformTheirEnvelopes :
    (.powerOn, 15, 0x04#8, []) ∈ initCommands ∧ (atInit 18).seq = .init 18 ∧ (18 : Fin 51).val = 15 + 3 ∧
    (envelope 0x04#8 [])[3]? = some (.line .cs .high) := by
  refine ⟨by decide, rfl, rfl, rfl⟩

theorem witness_RefreshCommandsPerformTheirEnvelopes :
    (.displayRefresh, 12, 0x12#8, []) ∈ refreshCommands (atRfsh 14) ∧ (atRfsh 14).seq = .rfsh 14 ∧
    (14 : Fin 16).val = 12 + 2 ∧ (envelope 0x12#8 [])[2]? = some (.write [0x12#8]) := by
  refine ⟨by simp [refreshCommands], rfl, rfl, rfl⟩

theorem witness_WholeInitCommandSendsItsEnvelope :
    (.vcomDcSetting, 38, 0x82#8, [0x0A#8]) ∈ initCommands ∧ (atInit 38).seq = .init 38 ∧ (38 : Fin 51).val = 38 ∧
    (44 : Fin 51).val = (38 : Fin 51).val + (envelope 0x82#8 [0x0A#8]).length := by
  refine ⟨by decide, rfl, rfl, rfl⟩

theorem witness_WholeLastCommandsSendTheirEnvelopes :
    (atInit 45).seq = .init 45 ∧ (atRfsh 0).seq = .rfsh 0 ∧ (atRfsh 6).seq = .rfsh 6 ∧ (atRfsh 12).seq = .rfsh 12 :=
  ⟨rfl, rfl, rfl, rfl⟩

/-- Each clause at the edge of its range: NotReady; color 3; column 152; row 152; the last pixel. -/
theorem witness_WrpixDoesWhatItsRuleSays :
    (∃ s : State, s.seq = .idle ∧ s.black.wf = true ∧ s.red.wf = true ∧ s.life = .uninit) ∧
    (painted.seq = .idle ∧ painted.black.wf = true ∧ painted.red.wf = true ∧ painted.life = .ready) ∧
    3 ≤ (3#8 : Byte).toNat ∧ 152 ≤ (152#8 : Byte).toNat ∧
    pairOfCode 2#8 = some (1#1, 0#1) ∧ (151#8 : Byte).toNat < 152 :=
  ⟨⟨State.reset, rfl, rfl, rfl, rfl⟩, ⟨rfl, rfl, rfl, rfl⟩, by decide, by decide, rfl, by decide⟩

theorem painted_readyIdle : ReadyIdle painted := ⟨rfl, rfl, rfl, rfl⟩

theorem ready_readyIdle : ReadyIdle ready := ⟨rfl, rfl, rfl, rfl⟩

theorem witness_WellFormedPixelRequestsAreThoseAnsweredWithSuccess :
    painted.seq = .idle ∧ painted.life = .ready ∧ (Instr.wrpix 2#8 151#8 151#8).wellFormed = true ∧
    (Instr.wrpix 2#8 152#8 151#8).wellFormed = false :=
  ⟨rfl, rfl, by decide, by decide⟩

theorem witness_WrpixChangesOnePixelOnly : ReadyIdle painted ∧ (151#8 : Byte).toNat < 152 ∧ (0#8 : Byte).toNat < 152 ∧
    (150 < 152 ∧ (150 ≠ (151#8 : Byte).toNat ∨ 151 ≠ (151#8 : Byte).toNat)) :=
  ⟨painted_readyIdle, by decide, by decide, by decide⟩

theorem witness_WrpixOverwritesAndCommutes :
    (ReadyIdle painted ∧ (151#8 : Byte).toNat < 152) ∧ ((151#8 : Byte) ≠ 150#8 ∨ (151#8 : Byte) ≠ 151#8) ∧
    (ReadyIdle ready ∧ ready.black = [] ∧ ready.red = []) :=
  ⟨⟨painted_readyIdle, by decide⟩, by decide, ready_readyIdle, rfl, rfl⟩

/-- Every in-range coordinate, row after row. -/
def allCoordinates : List (Byte × Byte) :=
  (List.range 152).flatMap fun y => (List.range 152).map fun x => (BitVec.ofNat 8 x, BitVec.ofNat 8 y)

theorem witness_FillingReconstructsTheImage :
    ReadyIdle ready ∧ ready.black = [] ∧ ready.red = [] ∧
    (∀ p ∈ allCoordinates, p.1.toNat < 152 ∧ p.2.toNat < 152) ∧
    (∀ x y : Byte, x.toNat < 152 → y.toNat < 152 → (x, y) ∈ allCoordinates) := by
  refine ⟨ready_readyIdle, rfl, rfl, fun p hp => ?_, fun x y hx hy => ?_⟩
  · obtain ⟨y, hy, hp⟩ := List.mem_flatMap.1 hp
    obtain ⟨x, hx, rfl⟩ := List.mem_map.1 hp
    have h1 := List.mem_range.1 hx
    have h2 := List.mem_range.1 hy
    simp only [BitVec.toNat_ofNat]
    omega
  · refine List.mem_flatMap.2 ⟨y.toNat, List.mem_range.2 hy, List.mem_map.2 ⟨x.toNat, List.mem_range.2 hx, ?_⟩⟩
    simp

theorem witness_SizeAnswersTheFixedDimensions :
    (ready.seq = .idle ∧ ready.life = .ready) ∧ (State.reset.seq = .idle ∧ State.reset.life = .uninit) :=
  ⟨⟨rfl, rfl⟩, rfl, rfl⟩

theorem witness_ColorEncoderAndDecoderAgree : decodeColor 1#1 0#1 = .ok .red := rfl

/-- The last coordinate and the last position. -/
theorem witness_CoordinatesMapOneToOneOntoPlaneBits :
    ∃ x y i k : Nat, x < 152 ∧ y < 152 ∧ i < 2888 ∧ k < 8 ∧ byteIndex x y = i ∧ bitOffset x y = k ∧ i = 2887 ∧ k = 0 :=
  ⟨151, 151, 2887, 0, by decide⟩

theorem witness_CanonicalPlanesThatReadAlikeAreEqual :
    Memory.wf [(0, 0x7F#8), (2887, 0xFE#8)] = true ∧
    ∀ a, a < 2888 → Memory.read [(0, 0x7F#8), (2887, 0xFE#8)] a = Memory.read [(0, 0x7F#8), (2887, 0xFE#8)] a :=
  ⟨by decide, fun _ _ => rfl⟩

/-- One word for each clause, each of T4. -/
theorem witness_HostWordIsCheckedInOrder :
    (illegalWord 0x03000001#32 ∧ illegalWord 0xFF000000#32) ∧
    (¬ illegalWord 0x01000000#32 ∧ notReadyFor 0x01000000#32 ready) ∧
    (¬ illegalWord 0x0203FFFF#32 ∧ notReadyFor 0x0203FFFF#32 State.reset) ∧
    ((0x02030000#32 : Word).toNat / 2 ^ 24 = 2 ∧ ¬ notReadyFor 0x02030000#32 ready ∧
      3 ≤ (0x02030000#32 : Word).toNat / 2 ^ 16 % 2 ^ 8) ∧
    ((0x02010098#32 : Word).toNat / 2 ^ 24 = 2 ∧ ¬ notReadyFor 0x02010098#32 ready ∧
      (0x02010098#32 : Word).toNat / 2 ^ 16 % 2 ^ 8 < 3 ∧ 152 ≤ (0x02010098#32 : Word).toNat % 2 ^ 8) ∧
    (152 ≤ (0x02019800#32 : Word).toNat / 2 ^ 8 % 2 ^ 8) ∧
    ((offered ready 0x02010098#32).resetPin = false ∧ (offered ready 0x02010098#32).seq = .idle ∧
      (offered ready 0x02010098#32).hostWords = [0x02010098#32]) := by
  refine ⟨?_, ?_, ?_, ?_, ?_, by decide, rfl, rfl, rfl⟩ <;>
    simp [illegalWord, notReadyFor, ready, State.reset]

theorem witness_AcceptedWordFillsTheLatches :
    ((offered ready 0x0202644B#32).resetPin = false ∧ (offered ready 0x0202644B#32).seq = .idle ∧
      (offered ready 0x0202644B#32).hostWords = 0x0202644B#32 :: []) ∧
    (∃ s t : State, s.resetPin = false ∧ s.seq ≠ .idle ∧ step s = .next t) ∧
    (∃ s t : State, s.resetPin = false ∧ s.hostWords = [] ∧ step s = .next t) :=
  ⟨⟨rfl, rfl, rfl⟩, ⟨atInit 5, _, rfl, by decide, step_init rfl rfl⟩, ⟨ready, ready, rfl, rfl, rfl⟩⟩

/-- An accepted word, an action of INIT, the acceptance of REFRESH. -/
theorem witness_EachAcceptedWordGetsOneResponse :
    (∃ t, (offered ready 0x04000000#32).resetPin = false ∧ step (offered ready 0x04000000#32) = .next t) ∧
    (∃ t, (atInit 50).resetPin = false ∧ step (atInit 50) = .next t) ∧
    (∃ t, (offered ready 0x03000000#32).resetPin = false ∧ step (offered ready 0x03000000#32) = .next t) := by
  refine ⟨?_, ⟨_, rfl, step_init rfl rfl⟩, ?_⟩
  · obtain ⟨t, ht, _⟩ := step_word_outcome (s := offered ready 0x04000000#32) rfl rfl rfl
    exact ⟨t, rfl, ht⟩
  · obtain ⟨t, ht, _⟩ := step_word_outcome (s := offered ready 0x03000000#32) rfl rfl rfl
    exact ⟨t, rfl, ht⟩

theorem witness_OnlyWrpixChangesAPlane : ∃ s t : State, s.resetPin = false ∧ step s = .next t ∧ t.black ≠ s.black := by
  obtain ⟨t, ht, hb⟩ := exists_of_outcome (o := step (offered ready 0x02010000#32)) (f := State.black)
    (v := [(0, 0x7F#8)]) (by decide)
  exact ⟨_, t, rfl, ht, by rw [hb]; decide⟩

theorem witness_OnlyTheEndOfInitChangesTheLifecycleFlag :
    (∃ s t : State, s.resetPin = false ∧ step s = .next t ∧ s.seq = .init 50) ∧
    (∃ s t : State, s.resetPin = false ∧ step s = .next t ∧ s.seq ≠ .init 50) :=
  ⟨⟨atInit 50, _, rfl, step_init rfl rfl, rfl⟩, ⟨atInit 49, _, rfl, step_init rfl rfl, by decide⟩⟩

theorem witness_EveryActionAppendsOneEventOfItsPlace :
    (∃ s t : State, s.resetPin = false ∧ step s = .next t ∧ s.seq = .idle) ∧
    (∃ s t : State, s.resetPin = false ∧ step s = .next t ∧ s.seq ≠ .idle ∧ inSomeFrame s.seq) ∧
    (∃ s t : State, s.resetPin = false ∧ step s = .next t ∧ s.seq ≠ .idle ∧ ¬ inSomeFrame s.seq) :=
  ⟨⟨ready, ready, rfl, rfl, rfl⟩, ⟨atInit 45, _, rfl, step_init rfl rfl, by decide, by simp [inSomeFrame, atInit]⟩,
    ⟨atInit 44, _, rfl, step_init rfl rfl, by decide, by simp [inSomeFrame, atInit]⟩⟩

theorem beforeWrite_lines : LinesInv beforeWrite where
  fits := rfl
  before h := by cases h
  between h := by cases h
  inInit k h w := by
    cases h
    cases w <;> rfl
  inRefresh k h := by cases h
  waiting h := by rcases h with h | h <;> cases h

theorem witness_WritesAreOpcodesAndTheirPayloads : ∃ (s t : State) (bytes : List Byte),
    LinesInv s ∧ s.resetPin = false ∧ step s = .next t ∧ t.trace = s.trace ++ [.write bytes] :=
  ⟨beforeWrite, _, [0x01#8], beforeWrite_lines, rfl, step_init rfl rfl, rfl⟩

/-- A surface with the last pixel Red, the block about to run WRPIX. -/
theorem painted_planes (w : Word) : PlanesInv (offered painted w) where
  blackWf := rfl
  redWf := rfl
  pixels x y _ _ := by
    have hb : ∀ k, k < 8 → bitAt Config.blank k = 1#1 := by decide
    have h1 : bitAt (Memory.read (offered painted w).black (byteIndex x y)) (bitOffset x y) = 1#1 :=
      hb _ (bitOffset_lt x y)
    unfold State.pixelAt
    rw [h1]
    unfold decodeColor
    split
    · split
      · exact ⟨_, rfl⟩
      · exact ⟨_, rfl⟩
    · next h => exact absurd rfl h
  fits := trivial
  blankBefore h := by cases h

theorem witness_StepKeepsPlanesInvariant : ∃ s t : State, PlanesInv s ∧ step s = .next t ∧ s.red ≠ [] := by
  obtain ⟨t, ht, _⟩ := step_word_outcome (s := offered painted 0x02010000#32) rfl rfl rfl
  exact ⟨_, t, painted_planes _, ht, by decide⟩

theorem witness_StepKeepsLinesInvariant : ∃ s t : State, LinesInv s ∧ step s = .next t :=
  ⟨beforeWrite, _, beforeWrite_lines, step_init rfl rfl⟩

theorem polling_trace : TraceInv polling where
  fits := rfl
  before h := by cases h
  inInit k h := by cases h
  after _ := ⟨refreshEvents ready ++ [.busy .high], (List.append_assoc ..).symm⟩
  inRefresh k h := by cases h
  polling _ := ⟨initEvents, 1, rfl⟩
  halted h := by cases h

theorem witness_StepKeepsTraceInvariant : ∃ s t : State, TraceInv s ∧ step s = .next t :=
  ⟨polling, _, polling_trace, step_poll rfl rfl⟩

/-- A state some steps into a run: INIT was presented and accepted. -/
theorem witness_EveryReachablePixelHasAColor : ∃ (s : State) (x y : Nat),
    Reachable s ∧ s.seq = .init 0 ∧ x < 152 ∧ y < 152 := by
  obtain ⟨t, ht, hs⟩ := exists_of_outcome (o := step (State.reset.present 0x01000000#32)) (f := State.seq)
    (v := .init 0) (by decide)
  exact ⟨t, 151, 151, .step (.present _ .reset) ht, hs, by decide, by decide⟩

theorem witness_AnsweredRefreshHasSentEverything : ∃ (s : State) (a : BusyAnswer),
    TraceInv s ∧ s.seq = .poll ∧ (s.sampled a).seq = .idle :=
  ⟨polling, .low, polling_trace, rfl, rfl⟩

end Sys2Proof.Tests
end

/-! WRPIX in a ready, idle block: it goes straight to the checks (3) and (4) of R220, and these are the two halves of a
well-formed request (log 23). -/

namespace Sys2Proof.Machine

/-- WRPIX in a ready, idle block: check (2) of R220 passes and the latches hold the operands. -/
theorem exec_wrpix_ready {s : State} (hs : s.seq = .idle) (hl : s.life = .ready) (c y x : Byte) :
    exec (.wrpix c y x) s = writePixel (s.accept HostOp.wrpix c y x) :=
  (execWrpix_idle hs).trans (State.ifLife_pos hl)

/-- The color check of R220 fails exactly for the illegal codes of R83. -/
theorem colorOfCode_eq_none_iff {c : Byte} : colorOfCode c = none ↔ 3 ≤ c.toNat := by
  unfold colorOfCode
  split_ifs with h0 h1 h2
  · simp [h0]
  · simp [h1]
  · simp [h2]
  · have hillegal : 3 ≤ c.toNat := by bv_omega
    simpa using hillegal

/-- A legal pixel request by its numbers (R53, R83). -/
theorem wellFormed_wrpix_iff {c y x : Byte} :
    (Instr.wrpix c y x).wellFormed = true ↔ c.toNat < 3 ∧ y.toNat < 152 ∧ x.toNat < 152 := by
  simp only [Instr.wellFormed, legalColor, legalRow, legalColumn, Bool.and_eq_true, decide_eq_true_eq, and_assoc]
  exact Iff.rfl

/-- A response with a cause code is not the answer of success. -/
theorem State.respond_ne_success {s : State} {code : BitVec 8} (h : code ≠ 0#8) :
    (s.respond code 0#16 0#16).responses ≠ s.responses ++ [⟨0#8, 0#16, 0#16⟩] := by
  simpa using h

end Sys2Proof.Machine

namespace Sys2Proof.Claims

open Sys2Proof.Machine

/-- Settles O32, by the three outcomes of WRPIX: the two refusals answer a request that is not well-formed, the plane
updates one that is. -/
theorem wellFormedPixelRequestsAreThoseAnsweredWithSuccess :
    Obligations.WellFormedPixelRequestsAreThoseAnsweredWithSuccess := by
  intro s c y x hs hl
  rw [exec_wrpix_ready hs hl, wellFormed_wrpix_iff]
  rcases writePixel_cases (s.accept HostOp.wrpix c y x) with ⟨hc, hw⟩ | ⟨_, _, hr, hw⟩ | ⟨col, hc, hx, hy, hw⟩
  · have hillegal : 3 ≤ c.toNat := colorOfCode_eq_none_iff.1 hc
    exact ⟨_, hw, iff_of_false (by omega) (State.respond_ne_success (s := s.accept ..) (by decide))⟩
  · have hoff : 152 ≤ x.toNat ∨ 152 ≤ y.toNat := hr
    exact ⟨_, hw, iff_of_false (by omega) (State.respond_ne_success (s := s.accept ..) (by decide))⟩
  · have hlegal : ¬ 3 ≤ c.toNat := fun h =>
      Option.some_ne_none col (hc.symm.trans (colorOfCode_eq_none_iff.2 h))
    exact ⟨_, hw.trans (paint_painted hx hy), iff_of_true ⟨Nat.lt_of_not_le hlegal, hy, hx⟩ rfl⟩

end Sys2Proof.Claims

/-! What a run of events does to the state, said once for a list of them, and with it everything a step can do, place by
place of the sequencer. -/

namespace Sys2Proof.Machine

open Sys2Proof.Claims

/-! ### Events performed one after another -/

/-- An event whose answer the environment draws (R9, R35). -/
def Event.drawsAnswer : Event → Bool
  | .line _ _ => false
  | .write _ => true
  | .delay _ => false
  | .busy _ => true

/-- The state after some events: the lines as driven last, the trace longer by them, one draw for each answer. -/
def State.performed (s : State) (es : List Event) : State :=
  { s with
    rst := lineAfter .rst s.rst es, cs := lineAfter .cs s.cs es, dc := lineAfter .dc s.dc es,
    trace := s.trace ++ es, draws := s.draws + es.countP Event.drawsAnswer }

@[simp] theorem State.performed_black (s : State) (es : List Event) : (s.performed es).black = s.black := rfl
@[simp] theorem State.performed_red (s : State) (es : List Event) : (s.performed es).red = s.red := rfl
@[simp] theorem State.performed_life (s : State) (es : List Event) : (s.performed es).life = s.life := rfl
@[simp] theorem State.performed_seq (s : State) (es : List Event) : (s.performed es).seq = s.seq := rfl
@[simp] theorem State.performed_op (s : State) (es : List Event) : (s.performed es).op = s.op := rfl
@[simp] theorem State.performed_color (s : State) (es : List Event) : (s.performed es).color = s.color := rfl
@[simp] theorem State.performed_y (s : State) (es : List Event) : (s.performed es).y = s.y := rfl
@[simp] theorem State.performed_x (s : State) (es : List Event) : (s.performed es).x = s.x := rfl
@[simp] theorem State.performed_trace (s : State) (es : List Event) : (s.performed es).trace = s.trace ++ es := rfl
@[simp] theorem State.performed_hostWords (s : State) (es : List Event) :
    (s.performed es).hostWords = s.hostWords := rfl
@[simp] theorem State.performed_resetPin (s : State) (es : List Event) : (s.performed es).resetPin = s.resetPin := rfl
@[simp] theorem State.performed_responses (s : State) (es : List Event) :
    (s.performed es).responses = s.responses := rfl
@[simp] theorem State.performed_rst (s : State) (es : List Event) :
    (s.performed es).rst = lineAfter .rst s.rst es := rfl
@[simp] theorem State.performed_cs (s : State) (es : List Event) : (s.performed es).cs = lineAfter .cs s.cs es := rfl
@[simp] theorem State.performed_dc (s : State) (es : List Event) : (s.performed es).dc = lineAfter .dc s.dc es := rfl
@[simp] theorem State.performed_draws (s : State) (es : List Event) :
    (s.performed es).draws = s.draws + es.countP Event.drawsAnswer := rfl

theorem lineAfter_append (w : Line) (r : LineReg) (es fs : List Event) :
    lineAfter w r (es ++ fs) = lineAfter w (lineAfter w r es) fs := by
  induction es generalizing r with
  | nil => rfl
  | cons e es ih => cases e <;> exact ih _

theorem State.performed_append (s : State) (es fs : List Event) :
    (s.performed es).performed fs = s.performed (es ++ fs) := by
  simp [State.performed, lineAfter_append, Nat.add_assoc]

/-- A primitive action performs its event. -/
theorem State.perform_eq_performed (s : State) (a : Action) : s.perform a = s.performed [a.event] := by
  cases a with
  | drive w l => cases w <;> rfl
  | write bytes => rfl
  | delay ms => rfl

/-- The meaning the claims give an event (R26, R36) is that it is performed. -/
theorem after_eq_performed (e : Event) (s : State) : after e s = s.performed [e] := by
  cases e with
  | line w l => cases w <;> rfl
  | write bytes => rfl
  | delay ms => rfl
  | busy a => rfl

/-! ### The action lists as tables of events -/

/-- The INIT list is the table of R143. -/
theorem initEvents_eq : initEvents = initTable := rfl

/-- The REFRESH list is the table of R161. -/
theorem refreshEvents_eq (s : State) : refreshEvents s = refreshTable s := by
  have hplane : ∀ m : Memory, m.read 0 :: m.bytesFrom 1 2887 = planeList m := fun m =>
    m.bytes_cons.symm.trans m.bytes_eq
  rw [refreshTable, ← hplane, ← hplane, refreshEvents, refreshActions, Memory.bytes_cons, Memory.bytes_cons]
  rfl

theorem initEvents_getElem? (k : Fin 51) : initEvents[k.val]? = some (initAction k).event := by
  rw [initEvents, List.getElem?_map, List.getElem?_eq_getElem (by rw [initActions_length]; exact k.isLt)]
  rfl

theorem refreshEvents_getElem? (s : State) (k : Fin 16) :
    (refreshEvents s)[k.val]? = some (refreshAction s k).event := by
  rw [refreshEvents, List.getElem?_map, List.getElem?_eq_getElem (by rw [refreshActions_length]; exact k.isLt)]
  rfl

/-! ### One action of a list -/

/-- An action of INIT: its event, and the sequencer past it (R28, R145). -/
theorem State.act_init {s : State} {k : Fin 51} (a : Action) (h : s.seq = .init k) :
    s.act a = initNext k (s.performed [a.event]) := by
  have hseq : (s.performed [a.event]).seq = .init k := h
  rw [State.act, State.perform_eq_performed, initNext]
  split
  · next hk => exact State.advance_init hseq hk
  · next hk => exact State.advance_init_last hseq hk

/-- An action of REFRESH: its event, and the sequencer past it (R28, R161). -/
theorem State.act_rfsh {s : State} {k : Fin 16} (a : Action) (h : s.seq = .rfsh k) :
    s.act a = refreshNext k (s.performed [a.event]) := by
  have hseq : (s.performed [a.event]).seq = .rfsh k := h
  rw [State.act, State.perform_eq_performed, refreshNext]
  split
  · next hk => exact State.advance_rfsh hseq hk
  · next hk => exact State.advance_rfsh_last hseq hk

theorem initNext_of_lt {k : Fin 51} (s : State) (h : k.val < 50) :
    initNext k s = s.goto (.init ⟨k.val + 1, by omega⟩) :=
  dif_pos h

theorem initNext_last (s : State) :
    initNext 50 s = ({ s with life := .ready }.goto .idle).respond 0#8 0#16 0#16 := rfl

theorem refreshNext_of_lt {k : Fin 16} (s : State) (h : k.val < 15) :
    refreshNext k s = s.goto (.rfsh ⟨k.val + 1, by omega⟩) :=
  dif_pos h

theorem refreshNext_last (s : State) : refreshNext 15 s = s.goto .poll := rfl

/-! ### Everything a step can do -/

/-- Where a word that is taken leaves the sequencer. -/
theorem WordOutcome.seq_cases {w : Word} {s t : State} (h : WordOutcome w s t) (hs : s.seq = .idle) :
    t.seq = .idle ∨ (t.seq = .init 0 ∧ s.life = .uninit) ∨ (t.seq = .rfsh 0 ∧ s.life = .ready) := by
  cases h with
  | initStarts _ hl ht => exact .inr (.inl ⟨ht ▸ rfl, hl⟩)
  | refreshStarts _ hl ht => exact .inr (.inr ⟨ht ▸ rfl, hl⟩)
  | _ => subst t; exact .inl hs

/-- Everything a step from `s` to `t` can be, place by place of the sequencer. -/
inductive StepOutcome (s t : State) : Prop where
  | resets (hr : s.resetPin = true) (ht : t = s.blockReset)
  | waits (hs : s.seq = .idle) (hw : s.hostWords = []) (ht : t = s)
  | takesWord (w : Word) (ws : List Word) (hs : s.seq = .idle) (hw : s.hostWords = w :: ws)
      (ho : WordOutcome w (s.pop ws) t)
  | actsInInit (k : Fin 51) (e : Event) (hs : s.seq = .init k) (hk : k.val < 50) (he : initEvents[k.val]? = some e)
      (ht : t = (s.performed [e]).goto (.init ⟨k.val + 1, by omega⟩))
  | endsInit (hs : s.seq = .init 50)
      (ht : t = ({ s.performed [.line .cs .high] with life := .ready }.goto .idle).respond 0#8 0#16 0#16)
  | actsInRefresh (k : Fin 16) (e : Event) (hs : s.seq = .rfsh k) (hk : k.val < 15)
      (he : (refreshEvents s)[k.val]? = some e) (ht : t = (s.performed [e]).goto (.rfsh ⟨k.val + 1, by omega⟩))
  | endsRefresh (hs : s.seq = .rfsh 15) (ht : t = (s.performed [.line .cs .high]).goto .poll)
  | samplesHigh (hs : s.seq = .poll) (ht : t = s.performed [.busy .high])
  | samplesLow (hs : s.seq = .poll) (ht : t = ((s.performed [.busy .low]).respond 0#8 0#16 0#16).goto .idle)
  | samplesFail (hs : s.seq = .poll) (ht : t = ((s.performed [.busy .fail]).respond 2#8 0#16 0#16).goto .halt)

theorem StepOutcome.of_init {s t : State} {k : Fin 51} (hs : s.seq = .init k) (ht : t = s.act (initAction k)) :
    StepOutcome s t := by
  rw [State.act_init _ hs] at ht
  by_cases hk : k.val < 50
  · exact .actsInInit k _ hs hk (initEvents_getElem? k) (ht.trans (initNext_of_lt _ hk))
  · obtain rfl : k = 50 := by omega
    exact .endsInit hs (ht.trans (initNext_last _))

theorem StepOutcome.of_rfsh {s t : State} {k : Fin 16} (hs : s.seq = .rfsh k) (ht : t = s.act (refreshAction s k)) :
    StepOutcome s t := by
  rw [State.act_rfsh _ hs] at ht
  by_cases hk : k.val < 15
  · exact .actsInRefresh k _ hs hk (refreshEvents_getElem? s k) (ht.trans (refreshNext_of_lt _ hk))
  · obtain rfl : k = 15 := by omega
    have hlast : (refreshAction s 15).event = .line .cs .high := by
      have h := refreshEvents_getElem? s 15
      rw [refreshEvents_eq] at h
      exact (Option.some.inj h).symm
    exact .endsRefresh hs (hlast ▸ ht.trans (refreshNext_last _))

theorem StepOutcome.of_poll {s t : State} {a : BusyAnswer} (hs : s.seq = .poll) (ht : t = s.sampled a) :
    StepOutcome s t := by
  cases a with
  | high => exact .samplesHigh hs ht
  | low => exact .samplesLow hs ht
  | fail => exact .samplesFail hs ht

theorem step_outcome {s t : State} (ht : step s = .next t) : StepOutcome s t := by
  cases hr : s.resetPin with
  | true =>
    rw [step_reset hr] at ht
    injection ht with ht
    exact .resets hr ht.symm
  | false =>
    rcases step_next_cases hr ht with ⟨hs, hw, ht⟩ | ⟨w, ws, hs, hw, ho⟩ | ⟨k, hs, ht⟩ | ⟨k, hs, ht⟩ | ⟨hs, ht⟩
    · exact .waits hs hw ht
    · exact .takesWord w ws hs hw ho
    · exact .of_init hs ht
    · exact .of_rfsh hs ht
    · exact .of_poll hs ht

end Sys2Proof.Machine

/-! The three invariants. A step's outcome leaves the sequencer at one place, and an invariant says one thing there: for
each invariant first what is to be shown at each kind of place, then the step. -/

namespace Sys2Proof.Machine

open Sys2Proof.Claims

/-! ### The lifecycle flag fits the sequencer (R147, R169) -/

theorem State.lifeFits_of_idle {s : State} (h : s.seq = .idle) : s.lifeFits := by
  simp [State.lifeFits, h]

theorem State.lifeFits_init {s : State} {k : Fin 51} (h : s.seq = .init k) : s.lifeFits ↔ s.life = .uninit := by
  simp [State.lifeFits, h]

theorem State.lifeFits_rfsh {s : State} {k : Fin 16} (h : s.seq = .rfsh k) : s.lifeFits ↔ s.life = .ready := by
  simp [State.lifeFits, h]

theorem State.lifeFits_poll {s : State} (h : s.seq = .poll) : s.lifeFits ↔ s.life = .ready := by
  simp [State.lifeFits, h]

theorem State.lifeFits_halt {s : State} (h : s.seq = .halt) : s.lifeFits ↔ s.life = .ready := by
  simp [State.lifeFits, h]

/-- A word that is taken leaves the flag as it was, and starts an operation only if the flag fits it. -/
theorem WordOutcome.lifeFits {w : Word} {s t : State} (h : WordOutcome w s t) (hs : s.seq = .idle) : t.lifeFits := by
  obtain ⟨_, _, _, _, _, hlife, _⟩ := h.frame
  rcases h.seq_cases hs with hq | ⟨hq, hl⟩ | ⟨hq, hl⟩
  · exact State.lifeFits_of_idle hq
  · exact (State.lifeFits_init hq).2 (hlife.trans hl)
  · exact (State.lifeFits_rfsh hq).2 (hlife.trans hl)

theorem StepOutcome.lifeFits {s t : State} (h : StepOutcome s t) (hf : s.lifeFits) : t.lifeFits := by
  cases h with
  | resets hr ht => exact ht ▸ State.lifeFits_of_idle rfl
  | waits hs hw ht => exact ht ▸ hf
  | takesWord w ws hs hw ho => exact ho.lifeFits hs
  | actsInInit k e hs hk he ht => exact ht ▸ (State.lifeFits_init rfl).2 ((State.lifeFits_init hs).1 hf)
  | endsInit hs ht => exact ht ▸ State.lifeFits_of_idle rfl
  | actsInRefresh k e hs hk he ht => exact ht ▸ (State.lifeFits_rfsh rfl).2 ((State.lifeFits_rfsh hs).1 hf)
  | endsRefresh hs ht => exact ht ▸ (State.lifeFits_poll rfl).2 ((State.lifeFits_rfsh hs).1 hf)
  | samplesHigh hs ht => exact ht ▸ (State.lifeFits_poll hs).2 ((State.lifeFits_poll hs).1 hf)
  | samplesLow hs ht => exact ht ▸ State.lifeFits_of_idle rfl
  | samplesFail hs ht => exact ht ▸ (State.lifeFits_halt rfl).2 ((State.lifeFits_poll hs).1 hf)

/-! ### Lines -/

theorem LinesInv.of_idle {s : State} (hs : s.seq = .idle)
    (hu : s.life = .uninit → ∀ w, s.lineReg w = .notYetDriven)
    (hr : s.life = .ready → s.rst = .driven .high ∧ s.cs = .driven .high ∧ s.dc ≠ .notYetDriven) : LinesInv s where
  fits := State.lifeFits_of_idle hs
  before _ := hu
  between _ := hr
  inInit k h := by simp [hs] at h
  inRefresh k h := by simp [hs] at h
  waiting h := by simp [hs] at h

theorem LinesInv.of_init {s : State} {k : Fin 51} (hs : s.seq = .init k) (hf : s.lifeFits)
    (h : ∀ w, s.lineReg w = lineAfter w .notYetDriven (initEvents.take k.val)) : LinesInv s where
  fits := hf
  before h := by simp [hs] at h
  between h := by simp [hs] at h
  inInit j hj := by
    obtain rfl : k = j := Sequencer.init.inj (hs.symm.trans hj)
    exact h
  inRefresh k h := by simp [hs] at h
  waiting h := by simp [hs] at h

theorem LinesInv.of_rfsh {s : State} {k : Fin 16} (hs : s.seq = .rfsh k) (hf : s.lifeFits)
    (hrst : s.rst = .driven .high) (hcs : s.cs = lineAfter .cs (.driven .high) ((refreshEvents s).take k.val))
    (hdc : ∃ l, s.dc = lineAfter .dc (.driven l) ((refreshEvents s).take k.val)) : LinesInv s where
  fits := hf
  before h := by simp [hs] at h
  between h := by simp [hs] at h
  inInit k h := by simp [hs] at h
  inRefresh j hj := by
    obtain rfl : k = j := Sequencer.rfsh.inj (hs.symm.trans hj)
    exact ⟨hrst, hcs, hdc⟩
  waiting h := by simp [hs] at h

theorem LinesInv.of_waiting {s : State} (hs : s.seq = .poll ∨ s.seq = .halt) (hf : s.lifeFits)
    (h : s.rst = .driven .high ∧ s.cs = .driven .high ∧ s.dc = .driven .low) : LinesInv s where
  fits := hf
  before h := by simp [h] at hs
  between h := by simp [h] at hs
  inInit k h := by simp [h] at hs
  inRefresh k h := by simp [h] at hs
  waiting _ := h

theorem LinesInv.blockReset (s : State) : LinesInv s.blockReset :=
  .of_idle rfl (fun _ => s.blockReset_lineReg) (fun h => by cases h)

theorem exists_driven_of_ne {r : LineReg} (h : r ≠ .notYetDriven) : ∃ l, r = .driven l := by
  cases r with
  | notYetDriven => exact absurd rfl h
  | driven l => exact ⟨l, rfl⟩

/-- A word that is taken drives no line. -/
theorem LinesInv.takesWord {w : Word} {ws : List Word} {s t : State} (h : LinesInv s) (hs : s.seq = .idle)
    (ho : WordOutcome w (s.pop ws) t) : LinesInv t := by
  have hf := ho.lifeFits hs
  obtain ⟨_, _, _, _, _, hlife, _, hrst, hcs, hdc, _⟩ := ho.frame
  have hline : ∀ v, t.lineReg v = s.lineReg v := fun v => by cases v <;> assumption
  rcases ho.seq_cases hs with hq | ⟨hq, hl⟩ | ⟨hq, hl⟩
  · refine .of_idle hq (fun hu v => (hline v).trans (h.before hs (hlife.symm.trans hu) v)) fun hr => ?_
    rw [hrst, hcs, hdc]
    exact h.between hs (hlife.symm.trans hr)
  · exact .of_init hq hf fun v => (hline v).trans (h.before hs hl v)
  · obtain ⟨hr, hc, hd⟩ := h.between hs hl
    obtain ⟨l, hd⟩ := exists_driven_of_ne hd
    exact .of_rfsh hq hf (hrst.trans hr) (hcs.trans hc) ⟨l, hdc.trans hd⟩

/-- One more event of a list. -/
theorem take_succ_of_getElem? {es : List Event} {k : Nat} {e : Event} (h : es[k]? = some e) :
    es.take (k + 1) = es.take k ++ [e] := by
  rw [List.take_add_one, h]
  rfl

/-- The line `w` after the first `k + 1` events, from the line after the first `k`. -/
theorem lineAfter_take_succ {es : List Event} {k : Nat} {e : Event} (h : es[k]? = some e) (w : Line) (r : LineReg) :
    lineAfter w r (es.take (k + 1)) = lineAfter w (lineAfter w r (es.take k)) [e] := by
  rw [take_succ_of_getElem? h, lineAfter_append]

theorem State.lineReg_performed (s : State) (es : List Event) (w : Line) :
    (s.performed es).lineReg w = lineAfter w (s.lineReg w) es := by
  cases w <;> rfl

/-- No event of REFRESH drives RST. -/
theorem refreshEvents_rst {s : State} {k : Nat} {e : Event} (h : (refreshEvents s)[k]? = some e) (r : LineReg) :
    lineAfter .rst r [e] = r := by
  have he : e ∈ refreshTable s := refreshEvents_eq s ▸ List.mem_of_getElem? h
  simp only [refreshTable, List.mem_cons, List.not_mem_nil, or_false] at he
  rcases he with rfl | rfl | rfl | rfl | rfl | rfl | rfl | rfl | rfl | rfl | rfl | rfl | rfl | rfl | rfl | rfl <;> rfl

theorem StepOutcome.linesInv {s t : State} (ho : StepOutcome s t) (h : LinesInv s) : LinesInv t := by
  have hf := ho.lifeFits h.fits
  cases ho with
  | resets hr ht => exact ht ▸ LinesInv.blockReset s
  | waits hs hw ht => exact ht ▸ h
  | takesWord w ws hs hw ho => exact h.takesWord hs ho
  | actsInInit k e hs hk he ht =>
    subst t
    refine .of_init rfl hf fun w => (s.lineReg_performed [e] w).trans ?_
    rw [h.inInit k hs w]
    exact (lineAfter_take_succ he w _).symm
  | endsInit hs ht =>
    subst t
    have hline := h.inInit 50 hs
    refine .of_idle rfl (fun hu => by cases hu) fun _ => ⟨?_, rfl, ?_⟩
    · exact hline .rst
    · exact (hline .dc).trans_ne (by decide)
  | actsInRefresh k e hs hk he ht =>
    subst t
    obtain ⟨hrst, hcs, l, hdc⟩ := h.inRefresh k hs
    refine .of_rfsh rfl hf ((refreshEvents_rst he s.rst).trans hrst) ?_ ⟨l, ?_⟩
    · exact (congrArg (lineAfter .cs · [e]) hcs).trans (lineAfter_take_succ he .cs _).symm
    · exact (congrArg (lineAfter .dc · [e]) hdc).trans (lineAfter_take_succ he .dc _).symm
  | endsRefresh hs ht =>
    subst t
    obtain ⟨hrst, _, l, hdc⟩ := h.inRefresh 15 hs
    rw [refreshEvents_eq] at hdc
    exact .of_waiting (.inl rfl) hf ⟨hrst, rfl, hdc⟩
  | samplesHigh hs ht => exact ht ▸ .of_waiting (.inl hs) (ht ▸ hf) (h.waiting (.inl hs))
  | samplesLow hs ht =>
    subst t
    obtain ⟨hrst, hcs, hdc⟩ := h.waiting (.inl hs)
    have hready := (State.lifeFits_poll hs).1 h.fits
    exact .of_idle rfl (fun hu => by cases hready.symm.trans hu) fun _ => ⟨hrst, hcs, hdc.trans_ne (by decide)⟩
  | samplesFail hs ht => exact ht ▸ .of_waiting (.inr rfl) (ht ▸ hf) (h.waiting (.inl hs))

/-! ### Trace -/

theorem TraceInv.of_idle {s : State} (hs : s.seq = .idle) (hu : s.life = .uninit → s.trace = [])
    (hr : s.life = .ready → initEvents <+: s.trace) : TraceInv s where
  fits := State.lifeFits_of_idle hs
  before _ := hu
  inInit k h := by simp [hs] at h
  after := hr
  inRefresh k h := by simp [hs] at h
  polling h := by simp [hs] at h
  halted h := by simp [hs] at h

theorem TraceInv.of_init {s : State} {k : Fin 51} (hs : s.seq = .init k) (hf : s.lifeFits)
    (h : s.trace = initEvents.take k.val) : TraceInv s where
  fits := hf
  before h := by simp [hs] at h
  inInit j hj := by
    obtain rfl : k = j := Sequencer.init.inj (hs.symm.trans hj)
    exact h
  after hr := by cases ((State.lifeFits_init hs).1 hf).symm.trans hr
  inRefresh k h := by simp [hs] at h
  polling h := by simp [hs] at h
  halted h := by simp [hs] at h

theorem TraceInv.of_rfsh {s : State} {k : Fin 16} (hs : s.seq = .rfsh k) (hf : s.lifeFits)
    (ha : initEvents <+: s.trace) (h : ∃ earlier, s.trace = earlier ++ (refreshEvents s).take k.val) : TraceInv s where
  fits := hf
  before h := by simp [hs] at h
  inInit k h := by simp [hs] at h
  after _ := ha
  inRefresh j hj := by
    obtain rfl : k = j := Sequencer.rfsh.inj (hs.symm.trans hj)
    exact h
  polling h := by simp [hs] at h
  halted h := by simp [hs] at h

theorem TraceInv.of_poll {s : State} (hs : s.seq = .poll) (hf : s.lifeFits) (ha : initEvents <+: s.trace)
    (h : ∃ earlier n, s.trace = earlier ++ refreshEvents s ++ List.replicate n (.busy .high)) : TraceInv s where
  fits := hf
  before h := by simp [hs] at h
  inInit k h := by simp [hs] at h
  after _ := ha
  inRefresh k h := by simp [hs] at h
  polling _ := h
  halted h := by simp [hs] at h

theorem TraceInv.of_halt {s : State} (hs : s.seq = .halt) (hf : s.lifeFits) (ha : initEvents <+: s.trace)
    (h : ∃ earlier n,
      s.trace = earlier ++ refreshEvents s ++ List.replicate n (.busy .high) ++ [.busy .fail]) : TraceInv s where
  fits := hf
  before h := by simp [hs] at h
  inInit k h := by simp [hs] at h
  after _ := ha
  inRefresh k h := by simp [hs] at h
  polling h := by simp [hs] at h
  halted _ := h

theorem TraceInv.blockReset (s : State) : TraceInv s.blockReset :=
  .of_idle rfl (fun _ => rfl) (fun h => by cases h)

/-- A word that is taken leaves no mark in the trace. -/
theorem TraceInv.takesWord {w : Word} {ws : List Word} {s t : State} (h : TraceInv s) (hs : s.seq = .idle)
    (ho : WordOutcome w (s.pop ws) t) : TraceInv t := by
  have hf := ho.lifeFits hs
  obtain ⟨_, _, _, _, _, hlife, htrace, _⟩ := ho.frame
  rcases ho.seq_cases hs with hq | ⟨hq, hl⟩ | ⟨hq, hl⟩
  · exact .of_idle hq (fun hu => htrace.trans (h.before hs (hlife.symm.trans hu)))
      (fun hr => htrace ▸ h.after (hlife.symm.trans hr))
  · exact .of_init hq hf (htrace.trans (h.before hs hl))
  · exact .of_rfsh hq hf (htrace ▸ h.after hl) ⟨t.trace, (List.append_nil _).symm⟩

/-- A trace that begins with the INIT list still does with more events. -/
theorem initEvents_performed {s : State} (h : initEvents <+: s.trace) (es : List Event) :
    initEvents <+: (s.performed es).trace :=
  h.trans ⟨es, rfl⟩

theorem StepOutcome.traceInv {s t : State} (ho : StepOutcome s t) (h : TraceInv s) : TraceInv t := by
  have hf := ho.lifeFits h.fits
  cases ho with
  | resets hr ht => exact ht ▸ TraceInv.blockReset s
  | waits hs hw ht => exact ht ▸ h
  | takesWord w ws hs hw ho => exact h.takesWord hs ho
  | actsInInit k e hs hk he ht =>
    subst t
    exact .of_init rfl hf ((congrArg (· ++ [e]) (h.inInit k hs)).trans (take_succ_of_getElem? he).symm)
  | endsInit hs ht =>
    subst t
    have hall : s.trace ++ [.line .cs .high] = initEvents := congrArg (· ++ _) (h.inInit 50 hs)
    exact .of_idle rfl (fun hu => by cases hu) fun _ => ⟨[], (List.append_nil _).trans hall.symm⟩
  | actsInRefresh k e hs hk he ht =>
    subst t
    have ha := h.after ((State.lifeFits_rfsh hs).1 h.fits)
    obtain ⟨earlier, htrace⟩ := h.inRefresh k hs
    refine .of_rfsh rfl hf (initEvents_performed ha [e]) ⟨earlier, ?_⟩
    calc s.trace ++ [e] = earlier ++ ((refreshEvents s).take k.val ++ [e]) := by rw [htrace, List.append_assoc]
      _ = earlier ++ (refreshEvents s).take (k.val + 1) := by rw [take_succ_of_getElem? he]
  | endsRefresh hs ht =>
    subst t
    have ha := h.after ((State.lifeFits_rfsh hs).1 h.fits)
    obtain ⟨earlier, htrace⟩ := h.inRefresh 15 hs
    have hall : (refreshEvents s).take (15 : Fin 16).val ++ [.line .cs .high] = refreshEvents s := by
      rw [refreshEvents_eq]
      rfl
    refine .of_poll rfl hf (initEvents_performed ha _) ⟨earlier, 0, ?_⟩
    calc s.trace ++ [.line .cs .high] = earlier ++ refreshEvents s := by rw [htrace, List.append_assoc, hall]
      _ = earlier ++ refreshEvents s ++ [] := (List.append_nil _).symm
  | samplesHigh hs ht =>
    subst t
    have ha := h.after ((State.lifeFits_poll hs).1 h.fits)
    obtain ⟨earlier, n, htrace⟩ := h.polling hs
    refine .of_poll hs hf (initEvents_performed ha _) ⟨earlier, n + 1, ?_⟩
    calc s.trace ++ [.busy .high]
        = earlier ++ refreshEvents s ++ (List.replicate n (.busy .high) ++ [.busy .high]) := by
          rw [htrace, List.append_assoc]
      _ = earlier ++ refreshEvents s ++ List.replicate (n + 1) (.busy .high) := by rw [← List.replicate_succ']
  | samplesLow hs ht =>
    subst t
    have hready := (State.lifeFits_poll hs).1 h.fits
    exact .of_idle rfl (fun hu => by cases hready.symm.trans hu) fun _ => initEvents_performed (h.after hready) _
  | samplesFail hs ht =>
    subst t
    have ha := h.after ((State.lifeFits_poll hs).1 h.fits)
    obtain ⟨earlier, n, htrace⟩ := h.polling hs
    exact .of_halt rfl hf (initEvents_performed ha _) ⟨earlier, n, congrArg (· ++ [Event.busy .fail]) htrace⟩

end Sys2Proof.Machine

namespace Sys2Proof.Claims

open Sys2Proof.Machine

/-- Settles O49, by the outcomes of a step: an action drives the line its event names, and the rest drive none. -/
theorem stepKeepsLinesInvariant : Obligations.StepKeepsLinesInvariant :=
  fun _ _ h ht => (step_outcome ht).linesInv h

/-- Settles O50, by the outcomes of a step: an action or a sample appends its event, and the rest append none. -/
theorem stepKeepsTraceInvariant : Obligations.StepKeepsTraceInvariant :=
  fun _ _ h ht => (step_outcome ht).traceInv h

end Sys2Proof.Claims

/-! ### Planes -/

namespace Sys2Proof.Machine

open Sys2Proof.Claims

/-- Two canonical planes that read alike from `low` up are the same list: the first listed address is the first one that
does not read as the reset contents. -/
theorem Memory.eq_of_read_eq {m n : Memory} {low : Nat} (hm : Memory.wfFrom low m = true)
    (hn : Memory.wfFrom low n = true) (h : ∀ a, a < 2888 → m.read a = n.read a) : m = n := by
  induction m generalizing n low with
  | nil =>
    cases n with
    | nil => rfl
    | cons d rest =>
      obtain ⟨j, u⟩ := d
      obtain ⟨_, hj, hu, _⟩ := Memory.wfFrom_cons.1 hn
      exact absurd (by simpa [Memory.read] using (h j hj).symm) hu
  | cons c mrest ih =>
    obtain ⟨k, v⟩ := c
    obtain ⟨_, hk, hv, hmrest⟩ := Memory.wfFrom_cons.1 hm
    cases n with
    | nil => exact absurd (by simpa [Memory.read] using h k hk) hv
    | cons d nrest =>
      obtain ⟨j, u⟩ := d
      obtain ⟨_, hj, hu, hnrest⟩ := Memory.wfFrom_cons.1 hn
      rcases Nat.lt_trichotomy k j with hlt | rfl | hlt
      · have hblank := Memory.read_of_lt (Memory.wfFrom_cons.2 ⟨Nat.le_refl j, hj, hu, hnrest⟩) hlt
        exact absurd (by simpa [Memory.read] using (h k hk).trans hblank) hv
      · have hhead : v = u := by simpa [Memory.read] using h k hk
        have htail : mrest = nrest := ih hmrest hnrest fun a ha => by
          by_cases hak : k = a
          · rw [Memory.read_of_lt hmrest (by omega), Memory.read_of_lt hnrest (by omega)]
          · simpa [Memory.read, hak] using h a ha
        rw [hhead, htail]
      · have hblank := Memory.read_of_lt (Memory.wfFrom_cons.2 ⟨Nat.le_refl k, hk, hv, hmrest⟩) hlt
        exact absurd (by simpa [Memory.read] using (h j hj).symm.trans hblank) hu

/-- The pair of a color decodes to it (R181, R182). -/
theorem decodeColor_bits (c : Color) : decodeColor (blackBit c) (redBit c) = .ok c := by
  cases c <;> rfl

theorem bitAt_putBit_same {v : Byte} {k : Nat} {b : BitVec 1} (hk : k < 8) : bitAt (putBit v k b) k = b :=
  bitAt_of_getLsbD ((putBit_getLsbD hk).trans (if_pos rfl))

theorem bitAt_putBit_ne {v : Byte} {k j : Nat} {b : BitVec 1} (hk : k < 8) (hj : j ≠ k) :
    bitAt (putBit v k b) j = bitAt v j := by
  have hbit : (bitAt v j).getLsbD 0 = v.getLsbD j := by simp [bitAt]
  exact bitAt_of_getLsbD (((putBit_getLsbD hk).trans (if_neg hj)).trans hbit.symm)

/-- The bit at any place of a plane after the bit `k` of byte `i` was put. -/
theorem bitAt_write_putBit {m : Memory} {i k j l : Nat} {b : BitVec 1} (h : m.wf = true) (hk : k < 8) :
    bitAt ((Memory.write i (putBit (m.read i) k b) m).read j) l =
      if j = i ∧ l = k then b else bitAt (m.read j) l := by
  rw [Memory.read_write h]
  by_cases hj : j = i
  · subst hj
    by_cases hl : l = k
    · subst hl
      simp [bitAt_putBit_same hk]
    · simp [bitAt_putBit_ne hk hl, hl]
  · simp [hj]

/-- A successful WRPIX gives the pixels at its place in the planes the color, and every other pixel keeps its own. -/
theorem State.pixelAt_painted {s : State} {c : Color} {x y : Nat} (hb : s.black.wf = true) (hr : s.red.wf = true)
    (x' y' : Nat) :
    (s.painted c x y).pixelAt x' y' =
      if byteIndex x' y' = byteIndex x y ∧ bitOffset x' y' = bitOffset x y then .ok c else s.pixelAt x' y' := by
  have hk := bitOffset_lt x y
  simp only [State.pixelAt, State.painted, State.respond_black, State.respond_red, bitAt_write_putBit hb hk,
    bitAt_write_putBit hr hk]
  split
  · exact decodeColor_bits c
  · rfl

theorem PlanesInv.of_planes_eq {s t : State} (h : PlanesInv s) (hb : t.black = s.black) (hr : t.red = s.red)
    (hf : t.lifeFits) (hl : t.life = .uninit → s.life = .uninit) : PlanesInv t where
  blackWf := hb ▸ h.blackWf
  redWf := hr ▸ h.redWf
  pixels x y hx hy := by
    have hpixel : t.pixelAt x y = s.pixelAt x y := by simp only [State.pixelAt, hb, hr]
    exact hpixel ▸ h.pixels x y hx hy
  fits := hf
  blankBefore hu := by
    rw [hb, hr]
    exact h.blankBefore (hl hu)

/-- Every byte of a blank plane has only ones, and two ones are White. -/
theorem PlanesInv.of_blank {s : State} (hb : s.black = []) (hr : s.red = []) (hf : s.lifeFits) : PlanesInv s where
  blackWf := by rw [hb, Memory.empty_wf]
  redWf := by rw [hr, Memory.empty_wf]
  pixels x y _ _ := by
    have hone : ∀ k, k < 8 → bitAt Config.blank k = 1#1 := by decide
    have hbit : bitAt (Memory.read [] (byteIndex x y)) (bitOffset x y) = 1#1 := hone _ (bitOffset_lt x y)
    rw [State.pixelAt, hb, hr, hbit]
    exact ⟨.white, decodeColor_bits .white⟩
  fits := hf
  blankBefore _ := ⟨hb, hr⟩

/-- A successful WRPIX in a ready, idle block. -/
theorem PlanesInv.painted {s : State} {c : Color} {x y : Nat} (h : PlanesInv s) (hs : s.seq = .idle)
    (hl : s.life = .ready) (hx : x < 152) (hy : y < 152) : PlanesInv (s.painted c x y) where
  blackWf := Memory.write_wfFrom (Nat.zero_le _) (byteIndex_lt hx hy) h.blackWf
  redWf := Memory.write_wfFrom (Nat.zero_le _) (byteIndex_lt hx hy) h.redWf
  pixels x' y' hx' hy' := by
    rw [State.pixelAt_painted h.blackWf h.redWf]
    split
    · exact ⟨c, rfl⟩
    · exact h.pixels x' y' hx' hy'
  fits := State.lifeFits_of_idle hs
  blankBefore hu := by cases hl.symm.trans hu

/-- A word that is taken leaves the planes as they were, or paints one pixel. -/
theorem PlanesInv.takesWord {w : Word} {ws : List Word} {s t : State} (h : PlanesInv s) (hs : s.seq = .idle)
    (ho : WordOutcome w (s.pop ws) t) : PlanesInv t := by
  have hf := ho.lifeFits hs
  obtain ⟨_, _, _, _, _, hlife, _⟩ := ho.frame
  have hl : t.life = .uninit → s.life = .uninit := hlife.symm.trans
  cases ho with
  | pixel ho col hready hc hx hy ht =>
    have hlatched : PlanesInv ((s.pop ws).latched w) := h.of_planes_eq rfl rfl (State.lifeFits_of_idle hs) id
    exact ht ▸ hlatched.painted hs hready hx hy
  | _ => subst t; exact h.of_planes_eq rfl rfl hf hl

theorem StepOutcome.planesInv {s t : State} (ho : StepOutcome s t) (h : PlanesInv s) : PlanesInv t := by
  have hf := ho.lifeFits h.fits
  cases ho with
  | resets hr ht => exact ht ▸ .of_blank rfl rfl (ht ▸ hf)
  | takesWord w ws hs hw ho => exact h.takesWord hs ho
  | endsInit hs ht => exact h.of_planes_eq (ht ▸ rfl) (ht ▸ rfl) hf (fun hu => by subst t; cases hu)
  | _ => subst t; exact h.of_planes_eq rfl rfl hf id

/-- The plane invariant holds of every reachable state: neither a presented word nor the reset input touches a plane. -/
theorem PlanesInv.of_reachable {s : State} (h : Reachable s) : PlanesInv s := by
  induction h with
  | reset => exact .of_blank rfl rfl (State.lifeFits_of_idle rfl)
  | step _ ht ih => exact (step_outcome ht).planesInv ih
  | present w _ ih => exact ih.of_planes_eq rfl rfl ih.fits id
  | assertReset _ ih => exact ih.of_planes_eq rfl rfl ih.fits id

end Sys2Proof.Machine

namespace Sys2Proof.Claims

open Sys2Proof.Machine

/-- Settles O48, by the outcomes of a step: a block reset blanks the planes, a WRPIX paints one pixel with a color's
pair, and the rest leave the planes alone. -/
theorem stepKeepsPlanesInvariant : Obligations.StepKeepsPlanesInvariant :=
  fun _ _ h ht => (step_outcome ht).planesInv h

/-- Settles O51, by the plane invariant along the run. -/
theorem everyReachablePixelHasAColor : Obligations.EveryReachablePixelHasAColor :=
  fun _ h => (PlanesInv.of_reachable h).pixels

/-- Settles O39, by induction on the two lists of bytes. -/
theorem canonicalPlanesThatReadAlikeAreEqual : Obligations.CanonicalPlanesThatReadAlikeAreEqual :=
  fun _ _ => Memory.eq_of_read_eq

/-- Settles O47: the reset state is idle and uninitialised, with blank planes, lines not yet driven and no events. -/
theorem invariantsHoldAtReset : Obligations.InvariantsHoldAtReset :=
  ⟨.of_blank rfl rfl (State.lifeFits_of_idle rfl),
    .of_idle rfl (fun _ => State.reset.blockReset_lineReg) (fun h => by cases h),
    .of_idle rfl (fun _ => rfl) (fun h => by cases h)⟩

end Sys2Proof.Claims

/-! Rules about the whole machine that are read off the outcomes of a step: what a step takes, what it changes, and
the one event an action appends. -/

namespace Sys2Proof.Machine

open Sys2Proof.Claims

/-- A step goes on in every state but HALT, and there too under reset. -/
theorem exists_step_next {s : State} (h : s.resetPin = true ∨ s.seq ≠ .halt) : ∃ t, step s = .next t := by
  cases hr : s.resetPin with
  | true => exact ⟨_, step_reset hr⟩
  | false =>
    cases hs : s.seq with
    | idle =>
      cases hw : s.hostWords with
      | nil => exact ⟨_, step_waiting hr hs hw⟩
      | cons w ws =>
        obtain ⟨t, ht, _⟩ := step_word_outcome hr hs hw
        exact ⟨t, ht⟩
    | init k => exact ⟨_, step_init hr hs⟩
    | rfsh k => exact ⟨_, step_rfsh hr hs⟩
    | poll => exact ⟨_, step_poll hr hs⟩
    | halt => simp [hr, hs] at h

/-- A step that takes no word leaves the latches, the planes and the waiting words alone. -/
theorem StepOutcome.frame {s t : State} (h : StepOutcome s t) (hr : s.resetPin = false)
    (hs : s.seq ≠ .idle ∨ s.hostWords = []) :
    t.hostWords = s.hostWords ∧ t.black = s.black ∧ t.red = s.red ∧ t.op = s.op ∧ t.color = s.color ∧ t.y = s.y ∧
    t.x = s.x := by
  cases h with
  | resets hr' => simp [hr] at hr'
  | takesWord w ws hs' hw => simp [hs', hw] at hs
  | _ => subst t; simp

/-- A word that changes a plane is a WRPIX, taken by a ready block. -/
theorem WordOutcome.of_planes_ne {w : Word} {s t : State} (h : WordOutcome w s t)
    (hne : t.black ≠ s.black ∨ t.red ≠ s.red) : opField w = HostOp.wrpix ∧ s.life = .ready := by
  cases h with
  | pixel ho _ hl => exact ⟨ho, hl⟩
  | _ => subst t; simp [State.latched] at hne

/-- A step that is no block reset changes the flag only at the last action of INIT. -/
theorem StepOutcome.life {s t : State} (h : StepOutcome s t) (hr : s.resetPin = false) :
    (s.seq = .init 50 ∧ t.life = .ready) ∨ (s.seq ≠ .init 50 ∧ t.life = s.life) := by
  cases h with
  | resets hr' => simp [hr] at hr'
  | takesWord w ws hs hw ho =>
    obtain ⟨_, _, _, _, _, hlife, _⟩ := ho.frame
    exact .inr ⟨by simp [hs], hlife⟩
  | endsInit hs ht => exact .inl ⟨hs, ht ▸ rfl⟩
  | actsInInit k e hs hk he ht =>
    have hne : k ≠ 50 := fun h => by simp [h] at hk
    exact .inr ⟨by simp [hs, hne], ht ▸ rfl⟩
  | actsInRefresh k e hs hk he ht => exact .inr ⟨by simp [hs], ht ▸ rfl⟩
  | _ hs => subst t; exact .inr ⟨by simp [hs], rfl⟩

/-- A step that is no block reset appends one event for an action or a sample, and none in IDLE. -/
theorem StepOutcome.event {s t : State} (h : StepOutcome s t) (hr : s.resetPin = false) :
    (s.seq = .idle ∧ t.trace = s.trace) ∨
    ∃ e, t.trace = s.trace ++ [e] ∧
      ((∃ k : Fin 51, s.seq = .init k ∧ initEvents[k.val]? = some e) ∨
        (∃ k : Fin 16, s.seq = .rfsh k ∧ (refreshEvents s)[k.val]? = some e) ∨
        (s.seq = .poll ∧ ∃ a, e = .busy a)) := by
  cases h with
  | resets hr' => simp [hr] at hr'
  | waits hs hw ht => exact .inl ⟨hs, ht ▸ rfl⟩
  | takesWord w ws hs hw ho =>
    obtain ⟨_, _, _, _, _, _, htrace, _⟩ := ho.frame
    exact .inl ⟨hs, htrace⟩
  | actsInInit k e hs hk he ht => exact .inr ⟨e, ht ▸ rfl, .inl ⟨k, hs, he⟩⟩
  | endsInit hs ht => exact .inr ⟨.line .cs .high, ht ▸ rfl, .inl ⟨50, hs, rfl⟩⟩
  | actsInRefresh k e hs hk he ht => exact .inr ⟨e, ht ▸ rfl, .inr (.inl ⟨k, hs, he⟩)⟩
  | endsRefresh hs ht => exact .inr ⟨.line .cs .high, ht ▸ rfl, .inr (.inl ⟨15, hs, by rw [refreshEvents_eq]; rfl⟩)⟩
  | samplesHigh hs ht => exact .inr ⟨.busy .high, ht ▸ rfl, .inr (.inr ⟨hs, _, rfl⟩)⟩
  | samplesLow hs ht => exact .inr ⟨.busy .low, ht ▸ rfl, .inr (.inr ⟨hs, _, rfl⟩)⟩
  | samplesFail hs ht => exact .inr ⟨.busy .fail, ht ▸ rfl, .inr (.inr ⟨hs, _, rfl⟩)⟩

/-! ### The kind of event at each place (R123) -/

/-- An event of a command envelope: a drive of CS or DC, or a write that is not empty. -/
def Event.inEnvelope : Event → Bool
  | .line .rst _ => false
  | .line .cs _ => true
  | .line .dc _ => true
  | .write bytes => !bytes.isEmpty
  | .delay _ => false
  | .busy _ => false

theorem Event.inEnvelope_cases {e : Event} (h : e.inEnvelope = true) :
    (∃ l, e = .line .cs l) ∨ (∃ l, e = .line .dc l) ∨ ∃ bytes, bytes ≠ [] ∧ e = .write bytes := by
  cases e with
  | line w l =>
    cases w with
    | rst => cases h
    | cs => exact .inl ⟨l, rfl⟩
    | dc => exact .inr (.inl ⟨l, rfl⟩)
  | write bytes => exact .inr (.inr ⟨bytes, by simpa [Event.inEnvelope] using h, rfl⟩)
  | delay ms => cases h
  | busy a => cases h

theorem initTable_inEnvelope {k : Fin 51} {e : Event} (h : initTable[k.val]? = some e)
    (hk : inSomeFrame (.init k)) : e.inEnvelope = true := by
  have hall : ∀ k : Fin 51, ¬ (k.val = 0 ∨ k.val = 1 ∨ k.val = 2 ∨ k.val = 19 ∨ k.val = 44) →
      initTable[k.val]?.all Event.inEnvelope = true := by decide
  simpa [h] using hall k hk

theorem refreshTable_inEnvelope {s : State} {k : Nat} {e : Event} (h : (refreshTable s)[k]? = some e) :
    e.inEnvelope = true := by
  have hplane : ∀ m, (planeList m).isEmpty = false := fun m => by simp [planeList]
  have hall : ∀ e ∈ refreshTable s, e.inEnvelope = true := by simp [refreshTable, Event.inEnvelope, hplane]
  exact hall e (List.mem_of_getElem? h)

/-- The five actions of INIT outside the command frames. -/
theorem initTable_outside {k : Fin 51} {e : Event} (h : initTable[k.val]? = some e) (hk : ¬ inSomeFrame (.init k)) :
    (k = 0 ∧ e = .line .rst .low) ∨ (k = 2 ∧ e = .line .rst .high) ∨ ((k = 1 ∨ k = 19) ∧ e = .delay 100) ∨
    (k = 44 ∧ e = .delay 10) := by
  have hplace : k = 0 ∨ k = 1 ∨ k = 2 ∨ k = 19 ∨ k = 44 := by
    simp only [Fin.ext_iff]
    exact not_not.1 hk
  rcases hplace with rfl | rfl | rfl | rfl | rfl <;> obtain rfl := Option.some.inj h <;> decide

end Sys2Proof.Machine

namespace Sys2Proof.Claims

open Sys2Proof.Machine

/-- Settles O9, by the place of the sequencer. -/
theorem stepFaultsOnlyInHaltAndNeverRefuses : Obligations.StepFaultsOnlyInHaltAndNeverRefuses :=
  fun _ => ⟨step_halt, exists_step_next⟩

/-- Settles O10, by what a step that takes no word leaves alone. -/
theorem busyBlockTakesNoWordAndKeepsItsPlanes : Obligations.BusyBlockTakesNoWordAndKeepsItsPlanes := by
  intro s hr hidle hhalt
  obtain ⟨t, ht⟩ := exists_step_next (.inr hhalt)
  exact ⟨t, ht, (step_outcome ht).frame hr (.inl hidle)⟩

/-- Settles O41: the word's fields by the outcomes of a word, the other steps by what they leave alone. -/
theorem acceptedWordFillsTheLatches : Obligations.AcceptedWordFillsTheLatches := by
  refine ⟨fun s w ws hr hs hw => ?_, fun s t hr hs ht => ?_⟩
  · obtain ⟨t, ht, ho⟩ := step_word_outcome hr hs hw
    obtain ⟨hop, hcolor, hy, hx, hwords, _⟩ := ho.frame
    rw [← opField_toNat, ← colorField_toNat, ← yField_toNat, ← xField_toNat, ← hop, ← hcolor, ← hy, ← hx]
    exact ⟨t, ht, hwords, rfl, rfl, rfl, rfl⟩
  · obtain ⟨_, _, _, hlatches⟩ := (step_outcome ht).frame hr hs
    exact hlatches

/-- Settles O43: a step that takes no word leaves the planes alone, and of the words only WRPIX changes one. -/
theorem onlyWrpixChangesAPlane : Obligations.OnlyWrpixChangesAPlane := by
  intro s t hr ht hne
  have hkeeps : ¬ (s.seq ≠ .idle ∨ s.hostWords = []) := fun h => by
    obtain ⟨_, hb, hred, _⟩ := (step_outcome ht).frame hr h
    exact hne.elim (absurd hb) (absurd hred)
  have hs : s.seq = .idle := by_contra fun h => hkeeps (.inl h)
  cases hw : s.hostWords with
  | nil => exact absurd (.inr hw) hkeeps
  | cons w ws =>
    obtain ⟨u, hu, ho⟩ := step_word_outcome hr hs hw
    obtain rfl : u = t := Host.Outcome.next.inj (hu.symm.trans ht)
    obtain ⟨hop, hl⟩ := ho.of_planes_ne hne
    exact ⟨hs, hl, w, ws, rfl, by rw [← opField_toNat, hop]; rfl⟩

/-- Settles O44, by the outcomes of a step. -/
theorem onlyTheEndOfInitChangesTheLifecycleFlag : Obligations.OnlyTheEndOfInitChangesTheLifecycleFlag := by
  intro s t hr ht
  rcases (step_outcome ht).life hr with ⟨hs, hl⟩ | ⟨hs, hl⟩
  · exact ⟨fun _ => hl, fun h => absurd hs h⟩
  · exact ⟨fun h => absurd h hs, fun _ => hl⟩

/-- Settles O45: the event is the one of the tables of R143 and R161 at the place, or a sample. -/
theorem everyActionAppendsOneEventOfItsPlace : Obligations.EveryActionAppendsOneEventOfItsPlace := by
  intro s t hr ht
  rcases (step_outcome ht).event hr with ⟨hs, htrace⟩ | ⟨e, htrace, ⟨k, hs, he⟩ | ⟨k, hs, he⟩ | ⟨hs, ha⟩⟩
  · exact ⟨fun _ => htrace, absurd hs⟩
  · rw [hs]
    refine ⟨by simp, fun _ =>
      ⟨e, htrace, fun hin => Event.inEnvelope_cases (initTable_inEnvelope he hin), fun hout => ?_⟩⟩
    simpa using initTable_outside he hout
  · rw [hs]
    rw [refreshEvents_eq] at he
    exact ⟨by simp, fun _ =>
      ⟨e, htrace, fun _ => Event.inEnvelope_cases (refreshTable_inEnvelope he), absurd trivial⟩⟩
  · rw [hs]
    exact ⟨by simp, fun _ => ⟨e, htrace, False.elim, fun _ => .inr (.inr (.inr (.inr ⟨rfl, ha⟩)))⟩⟩

end Sys2Proof.Claims

/-! Whole runs of INIT and REFRESH: from any place of an action list the rest of its table is performed, by steps of the
block and by the instruction alone. -/

namespace Sys2Proof.Machine

open Sys2Proof.Claims

/-- `n` times over one way to go on, stopping at the first state that has no next. -/
def runTimes (f : State → Host.Outcome State Fault Refusal) : Nat → State → Host.Outcome State Fault Refusal
  | 0, s => .next s
  | n + 1, s =>
    match f s with
    | .next t => runTimes f n t
    | .fault r => .fault r
    | .refused r => .refused r

theorem runTimes_succ {f : State → Host.Outcome State Fault Refusal} {s t : State} (n : Nat) (h : f s = .next t) :
    runTimes f (n + 1) s = runTimes f n t := by
  rw [runTimes, h]

theorem stepTimes_eq_runTimes (n : Nat) (s : State) : stepTimes n s = runTimes step n s := by
  induction n generalizing s with
  | zero => rfl
  | succ n ih =>
    rw [stepTimes, runTimes]
    cases step s with
    | next t => exact ih t
    | fault r => rfl
    | refused r => rfl

theorem execTimes_eq_runTimes (i : Instr) (n : Nat) (s : State) : execTimes i n s = runTimes (exec i) n s := by
  induction n generalizing s with
  | zero => rfl
  | succ n ih =>
    rw [execTimes, runTimes]
    cases exec i s with
    | next t => exact ih t
    | fault r => rfl
    | refused r => rfl

/-- Event `k` of a list and then the rest of the list. -/
theorem State.performed_drop (s : State) {es : List Event} {k : Nat} {e : Event} (h : es[k]? = some e) :
    (s.performed [e]).performed (es.drop (k + 1)) = s.performed (es.drop k) := by
  obtain ⟨hk, rfl⟩ := List.getElem?_eq_some_iff.1 h
  rw [State.performed_append, List.drop_eq_getElem_cons hk]
  rfl

section Run

variable {f : State → Host.Outcome State Fault Refusal} {s : State}

/-- From a place of INIT, whatever performs the action at each place performs the rest of the table and completes
INIT. -/
theorem runTimes_init {k : Fin 51} {n : Nat}
    (hf : ∀ u j, u.resetPin = s.resetPin → u.seq = .init j → f u = .next (u.act (initAction j)))
    (hs : s.seq = .init k) (hn : k.val + n = 51) :
    runTimes f n s = .next (initNext 50 (s.performed (initTable.drop k.val))) := by
  induction n generalizing s k with
  | zero => omega
  | succ n ih =>
    have he := initEvents_getElem? k
    rw [initEvents_eq] at he
    rw [runTimes_succ n (hf s k rfl hs), State.act_init _ hs]
    by_cases hk : k.val < 50
    · rw [initNext_of_lt _ hk, ← s.performed_drop he]
      exact ih (k := ⟨k.val + 1, by omega⟩) hf rfl (by simp only; omega)
    · obtain rfl : k = 50 := by omega
      obtain rfl : n = 0 := by omega
      rfl

/-- From a place of REFRESH, whatever performs the action at each place performs the rest of the table and then
polls. -/
theorem runTimes_rfsh {k : Fin 16} {n : Nat}
    (hf : ∀ u j, u.resetPin = s.resetPin → u.seq = .rfsh j → f u = .next (u.act (refreshAction u j)))
    (hs : s.seq = .rfsh k) (hn : k.val + n = 16) :
    runTimes f n s = .next (refreshNext 15 (s.performed ((refreshTable s).drop k.val))) := by
  induction n generalizing s k with
  | zero => omega
  | succ n ih =>
    have he := refreshEvents_getElem? s k
    rw [refreshEvents_eq] at he
    rw [runTimes_succ n (hf s k rfl hs), State.act_rfsh _ hs]
    by_cases hk : k.val < 15
    · rw [refreshNext_of_lt _ hk, ← s.performed_drop he]
      exact ih (k := ⟨k.val + 1, by omega⟩) hf rfl (by simp only; omega)
    · obtain rfl : k = 15 := by omega
      obtain rfl : n = 0 := by omega
      rw [← Option.some.inj he]
      rfl

end Run

theorem stepTimes_init {s : State} {k : Fin 51} {n : Nat} (hr : s.resetPin = false) (hs : s.seq = .init k)
    (hn : k.val + n = 51) : stepTimes n s = .next (initNext 50 (s.performed (initTable.drop k.val))) :=
  (stepTimes_eq_runTimes n s).trans (runTimes_init (fun _ _ hu => step_init (hu.trans hr)) hs hn)

theorem execTimes_init {s : State} {k : Fin 51} {n : Nat} (hs : s.seq = .init k) (hn : k.val + n = 51) :
    execTimes .init n s = .next (initNext 50 (s.performed (initTable.drop k.val))) :=
  (execTimes_eq_runTimes .init n s).trans (runTimes_init (fun _ _ _ => execInit_init) hs hn)

theorem stepTimes_rfsh {s : State} {k : Fin 16} {n : Nat} (hr : s.resetPin = false) (hs : s.seq = .rfsh k)
    (hn : k.val + n = 16) : stepTimes n s = .next (refreshNext 15 (s.performed ((refreshTable s).drop k.val))) :=
  (stepTimes_eq_runTimes n s).trans (runTimes_rfsh (fun _ _ hu => step_rfsh (hu.trans hr)) hs hn)

theorem execTimes_rfsh {s : State} {k : Fin 16} {n : Nat} (hs : s.seq = .rfsh k) (hn : k.val + n = 16) :
    execTimes .refresh n s = .next (refreshNext 15 (s.performed ((refreshTable s).drop k.val))) :=
  (execTimes_eq_runTimes .refresh n s).trans (runTimes_rfsh (fun _ _ _ => execRefresh_rfsh) hs hn)

/-! ### Acceptance -/

theorem exec_init_idle {s : State} (hs : s.seq = .idle) (hl : s.life = .uninit) :
    exec .init s = .next ((s.accept HostOp.init 0#8 0#8 0#8).goto (.init 0)) :=
  (execInit_idle hs).trans (State.ifLife_pos hl)

theorem exec_refresh_idle {s : State} (hs : s.seq = .idle) (hl : s.life = .ready) :
    exec .refresh s = .next ((s.accept HostOp.refresh 0#8 0#8 0#8).goto (.rfsh 0)) :=
  (execRefresh_idle hs).trans (State.ifLife_pos hl)

/-- The first of some steps. -/
theorem stepTimes_succ {s t : State} (n : Nat) (h : step s = .next t) : stepTimes (n + 1) s = stepTimes n t := by
  rw [stepTimes, h]

end Sys2Proof.Machine

namespace Sys2Proof.Claims

open Sys2Proof.Machine

/-- Settles O16: INIT at a place performs the action of its list, the list is the table, and the rest of the table
follows by induction on the actions left. -/
theorem initPerformsItsActionList : Obligations.InitPerformsItsActionList := by
  refine ⟨fun s k e hs he => ?_, fun s hs => ⟨_, execTimes_init hs rfl, rfl⟩, ?_⟩
  · have hevent : (initAction k).event = e := Option.some.inj ((initEvents_getElem? k).symm.trans he)
    rw [after_eq_performed, ← hevent, ← State.act_init _ hs]
    exact execInit_init hs
  · decide

/-- Settles O17: the acceptance, then the 51 actions of the table. -/
theorem wholeInitRuns : Obligations.WholeInitRuns := by
  intro s ws hr hs hl hw
  have haccept := (step_word hr hs hw (by decide : decodeHost 0x01000000#32 = .ok .init)).trans (exec_init_idle hs hl)
  calc stepTimes 52 s = stepTimes 51 (((s.pop ws).accept HostOp.init 0#8 0#8 0#8).goto (.init 0)) :=
        stepTimes_succ 51 haccept
    _ = .next (initNext 50 (State.performed _ initTable)) := stepTimes_init (k := 0) hr rfl rfl

/-- Settles O20: REFRESH at a place performs the action of its list, the list is the table, and the rest of the table
follows by induction on the actions left. -/
theorem refreshPerformsItsActionList : Obligations.RefreshPerformsItsActionList := by
  refine ⟨fun s k e hs he => ?_, fun s hs => ⟨_, execTimes_rfsh hs rfl, rfl, rfl, rfl, rfl⟩⟩
  rw [← refreshEvents_eq] at he
  have hevent : (refreshAction s k).event = e := Option.some.inj ((refreshEvents_getElem? s k).symm.trans he)
  rw [after_eq_performed, ← hevent, ← State.act_rfsh _ hs]
  exact execRefresh_rfsh hs

/-- Settles O21: the acceptance, then the 16 actions of the table. -/
theorem wholeRefreshRunsToTheBusyWait : Obligations.WholeRefreshRunsToTheBusyWait := by
  intro s ws hr hs hl hw
  have haccept :=
    (step_word hr hs hw (by decide : decodeHost 0x03000000#32 = .ok .refresh)).trans (exec_refresh_idle hs hl)
  calc stepTimes 17 s = stepTimes 16 (((s.pop ws).accept HostOp.refresh 0#8 0#8 0#8).goto (.rfsh 0)) :=
        stepTimes_succ 16 haccept
    _ = .next (refreshNext 15 (State.performed _ (refreshTable s))) := stepTimes_rfsh (k := 0) hr rfl rfl

end Sys2Proof.Claims

/-! What a step runs: the word on the port, the instruction in progress at a place, or the one placed there; and where a
host operation is accepted. -/

namespace Sys2Proof.Machine

open Sys2Proof.Claims

/-! ### The instruction in progress -/

/-- At a place of a frame of INIT the instruction in progress is the frame's panel command (R143). -/
theorem current_init_of_issuedAt {i : Instr} {k : Fin 51} (h : issuedAt i (.init k)) : current .init (.init k) = i := by
  cases i with
  | wrpix c y x => exact h.elim
  | _ => revert h k; simp only [issuedAt]; decide

/-- At a place of REFRESH the instruction in progress is the frame's panel command (R161). -/
theorem current_rfsh_of_issuedAt {i : Instr} {k : Fin 16} (h : issuedAt i (.rfsh k)) :
    current .refresh (.rfsh k) = i := by
  cases i with
  | wrpix c y x => exact h.elim
  | _ => revert h k; simp only [issuedAt]; decide

/-- Between the frames of INIT it is INIT itself (R143). -/
theorem current_init_of_not_inSomeFrame {k : Fin 51} (h : ¬ inSomeFrame (.init k)) :
    current .init (.init k) = .init := by
  revert h k
  simp only [inSomeFrame, not_not]
  decide

theorem step_init_current {s : State} {k : Fin 51} (hr : s.resetPin = false) (hs : s.seq = .init k) :
    step s = exec (current .init (.init k)) s :=
  (step_init hr hs).trans (exec_current_init hs).symm

theorem step_rfsh_current {s : State} {k : Fin 16} (hr : s.resetPin = false) (hs : s.seq = .rfsh k) :
    step s = exec (current .refresh (.rfsh k)) s :=
  (step_rfsh hr hs).trans (exec_current_rfsh hs).symm

/-- A panel command is issued in the action lists only. -/
theorem step_of_issuedAt {s : State} {i : Instr} (hr : s.resetPin = false) (h : issuedAt i s.seq) :
    step s = exec i s := by
  cases hs : s.seq with
  | init k => rw [step_init_current hr hs, current_init_of_issuedAt (hs ▸ h)]
  | rfsh k => rw [step_rfsh_current hr hs, current_rfsh_of_issuedAt (hs ▸ h)]
  | _ =>
    rw [hs] at h
    cases i <;> exact h.elim

/-! ### Placed instructions -/

/-- The step from `s` is exec of `i` at the state `u` with some place of the sequencer and the reset input low, and goes
on. -/
def RunsAtOnce (i : Instr) (u s : State) : Prop :=
  ∃ q t, step s = exec i { u with resetPin := false, seq := q } ∧
    exec i { u with resetPin := false, seq := q } = .next t

/-- A host word that decodes, on the port of an idle block. -/
theorem runsAtOnce_withHostWord {i : Instr} {w : Word} (s : State) (hd : decodeHost w = .ok i) :
    RunsAtOnce i s (s.withFetchWord 32 w.toNat) := by
  have hplace : s.withFetchWord 32 w.toNat = s.withHostWord w := by
    rw [State.withFetchWord, if_pos rfl, BitVec.ofNat_toNat, BitVec.setWidth_eq]
  have hrun : step (s.withHostWord w) = exec i { s with resetPin := false, seq := .idle } := step_word rfl rfl rfl hd
  obtain ⟨t, ht, _⟩ := step_word_outcome (s := s.withHostWord w) rfl rfl rfl
  exact hplace ▸ ⟨.idle, t, hrun, hrun ▸ ht⟩

/-- The sequencer at the first place of a panel command's frame. -/
theorem runsAtOnce_withFrame {i : Instr} {b : Byte} {q : Sequencer} (s : State) (hf : frameOf b = some q)
    (hi : issuedAt i q) : RunsAtOnce i s (s.withFetchWord 8 b.toNat) := by
  have hplace : s.withFetchWord 8 b.toNat = { s with resetPin := false, seq := q } := by
    rw [State.withFetchWord, if_neg (by decide), if_pos rfl, BitVec.ofNat_toNat, BitVec.setWidth_eq, State.withFrame,
      hf]
  have hrun : step { s with resetPin := false, seq := q } = exec i { s with resetPin := false, seq := q } :=
    step_of_issuedAt rfl hi
  have hne : q ≠ .halt := fun h => by
    subst h
    cases i <;> exact hi.elim
  obtain ⟨t, ht⟩ := exists_step_next (s := { s with resetPin := false, seq := q }) (.inr hne)
  exact hplace ▸ ⟨q, t, hrun, hrun ▸ ht⟩

/-- WRPIX decodes with any operands (R82). -/
theorem decodeHost_wrpix (c y x : Byte) : decodeHost (hostWord HostOp.wrpix c y x) = .ok (.wrpix c y x) := by
  obtain ⟨hop, hcolor, hy, hx⟩ := fields_hostWord HostOp.wrpix c y x
  rw [decodeHost, if_pos hop, hcolor, hy, hx]

theorem runsAtOnce_encode (i : Instr) (s : State) :
    RunsAtOnce i s (s.withFetchWord (encode i).bits (encode i).number) := by
  cases i with
  | init => exact runsAtOnce_withHostWord s (by decide)
  | wrpix c y x => exact runsAtOnce_withHostWord s (decodeHost_wrpix c y x)
  | refresh => exact runsAtOnce_withHostWord s (by decide)
  | size => exact runsAtOnce_withHostWord s (by decide)
  | powerSetting => exact runsAtOnce_withFrame s (q := .init 3) rfl (by simp [issuedAt])
  | boosterSoftStart => exact runsAtOnce_withFrame s (q := .init 9) rfl (by simp [issuedAt])
  | powerOn => exact runsAtOnce_withFrame s (q := .init 15) rfl (by simp [issuedAt])
  | panelSetting => exact runsAtOnce_withFrame s (q := .init 20) rfl (by simp [issuedAt])
  | vcomDataInterval => exact runsAtOnce_withFrame s (q := .init 26) rfl (by simp [issuedAt])
  | pllControl => exact runsAtOnce_withFrame s (q := .init 32) rfl (by simp [issuedAt])
  | vcomDcSetting => exact runsAtOnce_withFrame s (q := .init 38) rfl (by simp [issuedAt])
  | resolutionSetting => exact runsAtOnce_withFrame s (q := .init 45) rfl (by simp [issuedAt])
  | dataStart1 => exact runsAtOnce_withFrame s (q := .rfsh 0) rfl (by simp [issuedAt])
  | dataStart2 => exact runsAtOnce_withFrame s (q := .rfsh 6) rfl (by simp [issuedAt])
  | displayRefresh => exact runsAtOnce_withFrame s (q := .rfsh 12) rfl (by simp [issuedAt])

/-! ### Host operations outside IDLE (R29) -/

theorem execWrpix_busy {s : State} (c y x : Byte) (h : s.seq ≠ .idle) : execWrpix c y x s = .refused .notAccepted := by
  cases hs : s.seq with
  | idle => exact absurd hs h
  | _ => rw [execWrpix, hs]

theorem execSize_busy {s : State} (h : s.seq ≠ .idle) : execSize s = .refused .notAccepted := by
  cases hs : s.seq with
  | idle => exact absurd hs h
  | _ => rw [execSize, hs]

theorem execInit_busy {s : State} (h : s.seq ≠ .idle) (hk : ∀ k, s.seq ≠ .init k) :
    execInit s = .refused .notAccepted := by
  cases hs : s.seq with
  | idle => exact absurd hs h
  | init k => exact absurd hs (hk k)
  | _ => rw [execInit, hs]

theorem execRefresh_busy {s : State} (h : s.seq ≠ .idle) (hk : ∀ k, s.seq ≠ .rfsh k) (hp : s.seq ≠ .poll) :
    execRefresh s = .refused .notAccepted := by
  cases hs : s.seq with
  | idle => exact absurd hs h
  | rfsh k => exact absurd hs (hk k)
  | poll => exact absurd hs hp
  | _ => rw [execRefresh, hs]

/-! ### Host operations that the flag refuses (R147, R169) -/

theorem exec_init_notReady {s : State} (hs : s.seq = .idle) (hl : s.life = .ready) :
    exec .init s = .next ((s.accept HostOp.init 0#8 0#8 0#8).respond 7#8 0#16 0#16) :=
  (execInit_idle hs).trans (State.ifLife_neg (hl.trans_ne (by decide)))

theorem exec_refresh_notReady {s : State} (hs : s.seq = .idle) (hl : s.life = .uninit) :
    exec .refresh s = .next ((s.accept HostOp.refresh 0#8 0#8 0#8).respond 7#8 0#16 0#16) :=
  (execRefresh_idle hs).trans (State.ifLife_neg (hl.trans_ne (by decide)))

end Sys2Proof.Machine

namespace Sys2Proof.Claims

open Sys2Proof.Machine

/-- Settles O5. -/
theorem idleStepRunsTheHostWord : Obligations.IdleStepRunsTheHostWord :=
  ⟨fun _ _ _ _ => step_word, fun _ => step_waiting⟩

/-- Settles O6: the frames the block reads the instruction in progress from are those of R143 and R161. -/
theorem runningStepRunsTheInstructionInProgress : Obligations.RunningStepRunsTheInstructionInProgress := by
  refine ⟨fun _ _ => step_of_issuedAt, fun s k hr hs hout => ?_, fun s hr hs => ?_⟩
  · rw [step_init_current hr hs, current_init_of_not_inSomeFrame (hs ▸ hout)]
  · rw [step_fetch hr, fetch, hs]

/-- Settles O7, instruction by instruction: a host word from IDLE, a panel command from the first place of its frame. -/
theorem placedInstructionsRunAtOnce : Obligations.PlacedInstructionsRunAtOnce :=
  runsAtOnce_encode

/-- Settles O11. -/
theorem hostOperationsAreNotAcceptedOutsideIdle : Obligations.HostOperationsAreNotAcceptedOutsideIdle :=
  ⟨fun _ => execWrpix_busy, fun _ => execSize_busy, fun _ => execInit_busy, fun _ => execRefresh_busy⟩

/-- Settles O13. -/
theorem resetLeavesTheStatedValues : Obligations.ResetLeavesTheStatedValues :=
  ⟨fun _ _ => ⟨rfl, rfl⟩, rfl, rfl, rfl, rfl, rfl, rfl, step_waiting rfl rfl rfl⟩

/-- Settles O14: the step is the block reset, whatever the state. -/
theorem blockResetFromEveryState : Obligations.BlockResetFromEveryState :=
  fun s hr => ⟨s.blockReset, step_reset hr, fun _ _ => ⟨rfl, rfl⟩, rfl, rfl, rfl, rfl, rfl, rfl, rfl, rfl⟩

/-- Settles O15: the acceptance, and the refusal of R147. -/
theorem initIsAcceptedOnlyBeforeItHasRun : Obligations.InitIsAcceptedOnlyBeforeItHasRun :=
  ⟨fun _ hs hl => ⟨_, exec_init_idle hs hl, rfl⟩, fun _ hs hl => ⟨_, exec_init_notReady hs hl, rfl⟩⟩

/-- Settles O19: the acceptance, and the refusal of R169. -/
theorem refreshIsAcceptedOnlyWhenReady : Obligations.RefreshIsAcceptedOnlyWhenReady :=
  ⟨fun _ hs hl => ⟨_, exec_refresh_idle hs hl, rfl⟩, fun _ hs hl => ⟨_, exec_refresh_notReady hs hl, rfl⟩⟩

end Sys2Proof.Claims

/-! The two decoders and the encoder are inverse to each other, and each decoder refuses exactly what the tables of R82, R87
and R88 leave out. -/

namespace Sys2Proof

open Sys2Proof.Machine Sys2Proof.Claims

/-! ### Format H -/

/-- A host word is its four fields, in order (R81). -/
theorem hostWord_fields (w : Word) : hostWord (opField w) (colorField w) (yField w) (xField w) = w := by
  apply BitVec.eq_of_toNat_eq
  rw [hostWord_toNat, opField_toNat, colorField_toNat, yField_toNat, xField_toNat]
  omega

/-- A word with zero reserved bits is its operation code alone (R82). -/
theorem hostWord_of_reservedZero {w : Word} {o : Byte} (ho : opField w = o) (hz : reservedZero w = true) :
    hostWord o 0#8 0#8 0#8 = w := by
  obtain ⟨hcolor, hy, hx⟩ := fields_of_reservedZero hz
  simpa only [ho, hcolor, hy, hx] using hostWord_fields w

theorem encode_of_decodeHost {w : Word} {i : Instr} (h : decodeHost w = .ok i) : encode i = .host w := by
  rcases decodeHost_cases h with ⟨ho, hz, rfl⟩ | ⟨ho, hz, rfl⟩ | ⟨ho, hz, rfl⟩ | ⟨ho, rfl⟩
  · exact congrArg Encoding.host (hostWord_of_reservedZero ho hz)
  · exact congrArg Encoding.host (hostWord_of_reservedZero ho hz)
  · exact congrArg Encoding.host (hostWord_of_reservedZero ho hz)
  · rw [encode, ← ho, hostWord_fields]

/-- The operation code of a word by its number. -/
theorem opField_eq_iff {w : Word} {o : Byte} : opField w = o ↔ w.toNat / 2 ^ 24 = o.toNat := by
  rw [← BitVec.toNat_inj, opField_toNat]

/-- The legal words of R88 by their fields. -/
theorem not_illegalWord_iff {w : Word} :
    ¬ illegalWord w ↔ opField w = HostOp.wrpix ∨
      (opField w = HostOp.init ∨ opField w = HostOp.refresh ∨ opField w = HostOp.size) ∧ reservedZero w = true := by
  rw [illegalWord, not_not, reservedZero_iff]
  simp only [opField_eq_iff]
  rfl

/-- Format H decodes the legal words and refuses the rest (R88). -/
theorem decodeHost_dichotomy (w : Word) :
    (¬ illegalWord w ∧ ∃ i, decodeHost w = .ok i) ∨ (illegalWord w ∧ decodeHost w = .error .illegalOperation) := by
  rw [← not_not (a := illegalWord w), not_illegalWord_iff]
  unfold decodeHost
  split_ifs <;> simp [*]

/-! ### Format P -/

/-- Each branch of the decoder is taken for the one byte that its instruction is encoded to (R87). -/
theorem encode_of_decodePanel {b : Byte} {i : Instr} (h : decodePanel b = .ok i) : encode i = .panel b := by
  unfold decodePanel at h
  repeat' split at h
  all_goals cases h
  all_goals
    subst b
    rfl

/-- Format P decodes the eleven opcodes and refuses the rest (R87, R89). -/
theorem decodePanel_dichotomy (b : Byte) :
    (b ∈ opcodes ∧ ∃ i, decodePanel b = .ok i) ∨ (b ∉ opcodes ∧ decodePanel b = .error .unknownPanelOpcode) := by
  by_cases hb : b ∈ opcodes
  · have hall : ∀ b ∈ opcodes, (decodePanel b).isOk = true := by decide
    cases hd : decodePanel b with
    | ok i => exact .inl ⟨hb, i, rfl⟩
    | error e => simpa [hd, Except.isOk, Except.toBool] using hall b hb
  · have hne : ∀ o ∈ opcodes, b ≠ o := fun o ho h => hb (h ▸ ho)
    simp only [opcodes, List.forall_mem_cons] at hne
    refine .inr ⟨hb, ?_⟩
    simp [decodePanel, Opcode.panelSetting, Opcode.powerSetting, Opcode.powerOn, Opcode.boosterSoftStart,
      Opcode.dataStart1, Opcode.displayRefresh, Opcode.dataStart2, Opcode.pllControl, Opcode.vcomDataInterval,
      Opcode.resolutionSetting, Opcode.vcomDcSetting, hne]

/-! ### Both formats -/

theorem decode_encode (i : Instr) : decode (encode i) = .ok i := by
  cases i with
  | wrpix c y x => exact decodeHost_wrpix c y x
  | _ => decide

/-- The table's numbering of the bits reads the same encoding (R8, R81, R87). -/
theorem decodeTableWord_number (e : Encoding) : decodeTableWord e.bits e.number = (decode e).toOption := by
  cases e with
  | host w => simp [decodeTableWord, Encoding.bits, Encoding.number, decode]
  | panel b => simp [decodeTableWord, Encoding.bits, Encoding.number, decode]

end Sys2Proof

namespace Sys2Proof.Claims

/-- Settles O1: instruction by instruction the decoder inverts the encoder, and the table's numbering keeps every bit. -/
theorem decodeOfEncodeIsTheInstruction : Obligations.DecodeOfEncodeIsTheInstruction :=
  fun i => ⟨decode_encode i, by rw [decodeTableWord_number, decode_encode]; rfl⟩

/-- Settles O2, by the cases of each decoder: the fields of a word are all of it. -/
theorem decodedWordsEncodeBack : Obligations.DecodedWordsEncodeBack :=
  ⟨fun _ _ => encode_of_decodeHost, fun _ _ => encode_of_decodePanel⟩

/-- Settles O3: each decoder accepts exactly its table's words. -/
theorem illegalWordsAreExactlyThoseRefused : Obligations.IllegalWordsAreExactlyThoseRefused := by
  refine ⟨fun w => ?_, fun w => ?_, fun b => ?_, fun b => ?_⟩
  · rcases decodeHost_dichotomy w with ⟨hw, i, hd⟩ | ⟨hw, hd⟩ <;> simp [hw, hd]
  · rcases decodeHost_dichotomy w with ⟨hw, i, hd⟩ | ⟨hw, hd⟩ <;> simp [hw, hd]
  · rcases decodePanel_dichotomy b with ⟨hb, i, hd⟩ | ⟨hb, hd⟩ <;> simp [hb, hd]
  · rcases decodePanel_dichotomy b with ⟨hb, i, hd⟩ | ⟨hb, hd⟩ <;> simp [hb, hd]

/-- Settles O4, by evaluation of the decoders. -/
theorem sampleWordsDecode : Obligations.SampleWordsDecode := by
  unfold Obligations.SampleWordsDecode
  decide

end Sys2Proof.Claims

/-! The panel commands whole: inside its frame a command performs the actions of the list, outside it stops by name, and
from the first place of the frame to the last it appends its envelope. -/

namespace Sys2Proof.Machine

open Sys2Proof.Claims

/-! ### Inside and outside the frame -/

/-- At a place of its frame a panel command performs the action of the INIT list (R95, R143). -/
theorem exec_of_issuedAt_init {s : State} {i : Instr} {k : Fin 51} (hs : s.seq = .init k) (hi : issuedAt i (.init k)) :
    exec i s = .next (s.act (initAction k)) := by
  rw [← exec_current_init hs, current_init_of_issuedAt hi]

/-- At a place of its frame a panel command performs the action of the REFRESH list (R95, R161). -/
theorem exec_of_issuedAt_rfsh {s : State} {i : Instr} {k : Fin 16} (hs : s.seq = .rfsh k) (hi : issuedAt i (.rfsh k)) :
    exec i s = .next (s.act (refreshAction s k)) := by
  rw [← exec_current_rfsh hs, current_rfsh_of_issuedAt hi]

theorem issueCmd_notIssued {first : Sequencer} {c : Byte} {p : List Byte} {s : State}
    (h : ∀ j, first.offset s.seq = some j → (cmdActions c p).length ≤ j) :
    issueCmd first c p s = .refused .notIssued := by
  have hnone : ((first.offset s.seq).bind fun j => (cmdActions c p)[j]?) = none := by
    cases hj : first.offset s.seq with
    | none => rfl
    | some j => exact List.getElem?_eq_none (h j hj)
  rw [issueCmd, hnone]

theorem Sequencer.of_offset_init {a : Fin 51} {q : Sequencer} {j : Nat} (h : (Sequencer.init a).offset q = some j) :
    ∃ k, q = .init k ∧ k.val = a.val + j := by
  cases q with
  | init k =>
    obtain ⟨hle, hj⟩ := Option.ite_none_right_eq_some.1 h
    have hj := Option.some.inj hj
    exact ⟨k, rfl, by omega⟩
  | _ => cases h

theorem Sequencer.of_offset_rfsh {a : Fin 16} {q : Sequencer} {j : Nat} (h : (Sequencer.rfsh a).offset q = some j) :
    ∃ k, q = .rfsh k ∧ k.val = a.val + j := by
  cases q with
  | rfsh k =>
    obtain ⟨hle, hj⟩ := Option.ite_none_right_eq_some.1 h
    have hj := Option.some.inj hj
    exact ⟨k, rfl, by omega⟩
  | _ => cases h

/-- A command whose frame runs from place `a` to place `last` of INIT is refused at every other place. -/
theorem issueCmd_init_notIssued {a : Fin 51} {last : Nat} {c : Byte} {p : List Byte} {s : State}
    (hlen : a.val + (cmdActions c p).length = last + 1)
    (h : ∀ k, s.seq = .init k → ¬ (a.val ≤ k.val ∧ k.val ≤ last)) :
    issueCmd (.init a) c p s = .refused .notIssued := by
  refine issueCmd_notIssued fun j hj => ?_
  obtain ⟨k, hs, hk⟩ := Sequencer.of_offset_init hj
  have hout := h k hs
  omega

/-- A command whose frame runs from place `a` to place `last` of REFRESH is refused at every other place. -/
theorem issueCmd_rfsh_notIssued {a : Fin 16} {last : Nat} {c : Byte} {p : List Byte} {s : State}
    (hlen : a.val + (cmdActions c p).length = last + 1)
    (h : ∀ k, s.seq = .rfsh k → ¬ (a.val ≤ k.val ∧ k.val ≤ last)) :
    issueCmd (.rfsh a) c p s = .refused .notIssued := by
  refine issueCmd_notIssued fun j hj => ?_
  obtain ⟨k, hs, hk⟩ := Sequencer.of_offset_rfsh hj
  have hout := h k hs
  omega

/-- Every panel command is refused outside its frame (R89, R223; log 2). -/
theorem exec_notIssued {i : Instr} {s : State} (hi : i ∈ panelCommands) (h : ¬ issuedAt i s.seq) :
    exec i s = .refused .notIssued := by
  have hinit : ∀ k, s.seq = .init k → ¬ issuedAt i (.init k) := fun k hs => hs ▸ h
  have hrfsh : ∀ k, s.seq = .rfsh k → ¬ issuedAt i (.rfsh k) := fun k hs => hs ▸ h
  cases i with
  | init => simp [panelCommands] at hi
  | wrpix c y x => simp [panelCommands] at hi
  | refresh => simp [panelCommands] at hi
  | size => simp [panelCommands] at hi
  | powerSetting => exact issueCmd_init_notIssued rfl hinit
  | boosterSoftStart => exact issueCmd_init_notIssued rfl hinit
  | powerOn => exact issueCmd_init_notIssued rfl hinit
  | panelSetting => exact issueCmd_init_notIssued rfl hinit
  | vcomDataInterval => exact issueCmd_init_notIssued rfl hinit
  | pllControl => exact issueCmd_init_notIssued rfl hinit
  | vcomDcSetting => exact issueCmd_init_notIssued rfl hinit
  | resolutionSetting => exact issueCmd_init_notIssued rfl hinit
  | dataStart1 => exact issueCmd_rfsh_notIssued (last := 5) rfl fun k hs hk => hrfsh k hs hk.2
  | dataStart2 => exact issueCmd_rfsh_notIssued rfl hrfsh
  | displayRefresh => exact issueCmd_rfsh_notIssued rfl hrfsh

/-! ### A whole frame -/

/-- The first of some performances. -/
theorem execTimes_succ {i : Instr} {s t : State} (n : Nat) (h : exec i s = .next t) :
    execTimes i (n + 1) s = execTimes i n t := by
  rw [execTimes, h]

/-- Event `k` of a list alone. -/
theorem drop_take_one {es : List Event} {k : Nat} {e : Event} (h : es[k]? = some e) : (es.drop k).take 1 = [e] := by
  obtain ⟨hk, rfl⟩ := List.getElem?_eq_some_iff.1 h
  rw [List.drop_eq_getElem_cons hk]
  rfl

/-- Event `k` of a list and then the next `n` of the list. -/
theorem State.performed_drop_take (s : State) {es : List Event} {k : Nat} {e : Event} (n : Nat)
    (h : es[k]? = some e) :
    (s.performed [e]).performed ((es.drop (k + 1)).take n) = s.performed ((es.drop k).take (n + 1)) := by
  obtain ⟨hk, rfl⟩ := List.getElem?_eq_some_iff.1 h
  rw [State.performed_append, List.drop_eq_getElem_cons hk]
  rfl

/-- A panel command performed from place `k` of INIT through place `last`, all in its frame: the events of the table
there, and the sequencer past `last`. -/
theorem execTimes_init_frame {i : Instr} {s : State} {k last : Fin 51} {n : Nat} (hs : s.seq = .init k)
    (hi : ∀ j : Fin 51, k.val ≤ j.val → j.val ≤ last.val → issuedAt i (.init j)) (hn : last.val = k.val + n) :
    execTimes i (n + 1) s = .next (initNext last (s.performed ((initTable.drop k.val).take (n + 1)))) := by
  induction n generalizing s k with
  | zero =>
    obtain rfl : last = k := Fin.ext hn
    rw [execTimes_succ 0 (exec_of_issuedAt_init hs (hi _ le_rfl le_rfl)), State.act_init _ hs,
      drop_take_one (es := initTable) (initEvents_getElem? last)]
    rfl
  | succ n ih =>
    rw [execTimes_succ _ (exec_of_issuedAt_init hs (hi k le_rfl (by omega))), State.act_init _ hs,
      initNext_of_lt _ (by omega), ← s.performed_drop_take (es := initTable) _ (initEvents_getElem? k)]
    exact ih (k := ⟨k.val + 1, by omega⟩) rfl (fun j hj => hi j (Nat.le_of_succ_le hj)) (by simp only; omega)

/-- A frame of INIT that another action follows: the sequencer stands at the place `next` after it. -/
theorem execTimes_init_inner_frame {i : Instr} {s : State} {k next : Fin 51} {n : Nat} (hs : s.seq = .init k)
    (hi : ∀ j : Fin 51, k.val ≤ j.val → j.val < next.val → issuedAt i (.init j)) (hn : next.val = k.val + (n + 1)) :
    execTimes i (n + 1) s = .next ((s.performed ((initTable.drop k.val).take (n + 1))).goto (.init next)) := by
  have hlt : k.val + n + 1 < 51 := hn ▸ next.isLt
  obtain rfl : next = ⟨k.val + n + 1, hlt⟩ := Fin.ext hn
  rw [execTimes_init_frame (last := ⟨k.val + n, by omega⟩) hs (fun j hk hj => hi j hk (Nat.lt_succ_of_le hj)) rfl,
    initNext_of_lt _ (by simp only; omega)]

/-- A panel command performed from place `k` of REFRESH through place `last`, all in its frame: the events of the table
there, and the sequencer past `last`. -/
theorem execTimes_rfsh_frame {i : Instr} {s : State} {k last : Fin 16} {n : Nat} (hs : s.seq = .rfsh k)
    (hi : ∀ j : Fin 16, k.val ≤ j.val → j.val ≤ last.val → issuedAt i (.rfsh j)) (hn : last.val = k.val + n) :
    execTimes i (n + 1) s = .next (refreshNext last (s.performed (((refreshTable s).drop k.val).take (n + 1)))) := by
  have he := fun k => refreshEvents_eq s ▸ refreshEvents_getElem? s k
  induction n generalizing s k with
  | zero =>
    obtain rfl : last = k := Fin.ext hn
    rw [execTimes_succ 0 (exec_of_issuedAt_rfsh hs (hi _ le_rfl le_rfl)), State.act_rfsh _ hs, drop_take_one (he last)]
    rfl
  | succ n ih =>
    rw [execTimes_succ _ (exec_of_issuedAt_rfsh hs (hi k le_rfl (by omega))), State.act_rfsh _ hs,
      refreshNext_of_lt _ (by omega), ← s.performed_drop_take _ (he k)]
    exact ih (k := ⟨k.val + 1, by omega⟩) rfl (fun j hj => hi j (Nat.le_of_succ_le hj)) (by simp only; omega) he

/-- An envelope performed: CS ends high and DC as the payload says, with one draw for each write (R110, R122). -/
theorem State.performed_envelope (s : State) (c : Byte) (p : List Byte) :
    s.performed (envelope c p) =
      { s with
        cs := .driven .high, dc := .driven (dcAfterFrame p), trace := s.trace ++ envelope c p,
        draws := s.draws + writesInFrame p } := by
  cases p <;> rfl

theorem envelope_length (c : Byte) (p : List Byte) : (envelope c p).length = 2 * writesInFrame p + 1 + 1 := by
  cases p <;> rfl

/-- At the place of each command of INIT the table has its envelope (R143). -/
theorem initTable_envelope : ∀ row ∈ initCommands,
    (initTable.drop row.2.1).take (envelope row.2.2.1 row.2.2.2).length = envelope row.2.2.1 row.2.2.2 := by
  decide

/-- The places of that envelope are the command's frame (R143). -/
theorem issuedAt_of_mem_initCommands {row : Instr × Nat × Byte × List Byte} (h : row ∈ initCommands) {j : Fin 51}
    (hfirst : row.2.1 ≤ j.val) (hlast : j.val < row.2.1 + (envelope row.2.2.1 row.2.2.2).length) :
    issuedAt row.1 (.init j) := by
  simp only [initCommands, List.mem_cons, List.not_mem_nil, or_false] at h
  rcases h with rfl | rfl | rfl | rfl | rfl | rfl | rfl | rfl <;> exact ⟨hfirst, Nat.le_of_lt_succ hlast⟩

/-- A whole plane is not an empty payload. -/
theorem envelope_planeList (c : Byte) (m : Memory) :
    envelope c (planeList m) = [.line .cs .low, .line .dc .low, .write [c], .line .dc .high, .write (planeList m),
      .line .cs .high] := by
  rw [planeList, ← Memory.bytes_eq, Memory.bytes_cons]
  rfl

end Sys2Proof.Machine

namespace Sys2Proof.Claims

open Sys2Proof.Machine

/-- Settles O8: at a place of a frame both are the action of the list that stands there. -/
theorem operationsExpandToTheirCommands : Obligations.OperationsExpandToTheirCommands :=
  ⟨fun _ _ _ hs hi => (execInit_init hs).trans (exec_of_issuedAt_init hs (hs ▸ hi)).symm,
    fun _ _ _ hs hi => (execRefresh_rfsh hs).trans (exec_of_issuedAt_rfsh hs (hs ▸ hi)).symm⟩

/-- Settles O12, command by command: its frame is the places of R143 and R161. -/
theorem panelCommandsAreIssuedOnlyInTheirFrames : Obligations.PanelCommandsAreIssuedOnlyInTheirFrames :=
  fun _ hi _ => exec_notIssued hi

/-- Settles O29: in the command's frame the actions of INIT are performed, and the table has the envelope there. -/
theorem wholeInitCommandSendsItsEnvelope : Obligations.WholeInitCommandSendsItsEnvelope := by
  intro row hrow s k next hs hk hnext
  have hlen := envelope_length row.2.2.1 row.2.2.2
  have hframe : ∀ j : Fin 51, k.val ≤ j.val → j.val < next.val → issuedAt row.1 (.init j) :=
    fun j hkj hj => issuedAt_of_mem_initCommands hrow (by omega) (by omega)
  have hrun := execTimes_init_inner_frame hs hframe (hnext.trans (congrArg _ hlen))
  rw [← hlen, hk, initTable_envelope row hrow, State.performed_envelope] at hrun
  exact hrun

/-- Settles O30: in the command's frame the actions of the list are performed, and the table has the envelope there; a
plane is not an empty payload. -/
theorem wholeLastCommandsSendTheirEnvelopes : Obligations.WholeLastCommandsSendTheirEnvelopes := by
  refine ⟨fun s hs => ?_, fun s hs => ?_, fun s hs => ?_, fun s hs => ?_⟩
  · exact execTimes_init_frame (n := 5) (last := 50) hs (fun j h1 h2 => ⟨h1, h2⟩) rfl
  · rw [envelope_planeList]
    exact execTimes_rfsh_frame (n := 5) (last := 5) hs (fun j _ h => h) rfl
  · rw [envelope_planeList]
    exact execTimes_rfsh_frame (n := 5) (last := 11) hs (fun j h1 h2 => ⟨h1, h2⟩) rfl
  · exact execTimes_rfsh_frame (n := 3) (last := 15) hs (fun j h1 h2 => ⟨h1, h2⟩) rfl

end Sys2Proof.Claims

/-! The host port: the checks of R220 on a word, in their order, and the one response that each accepted word gets. -/

namespace Sys2Proof.Machine

open Sys2Proof.Claims

/-! ### The checks of R220 -/

theorem exec_size_notReady {s : State} (hs : s.seq = .idle) (hl : s.life = .uninit) :
    exec .size s = .next ((s.accept HostOp.size 0#8 0#8 0#8).respond 7#8 0#16 0#16) :=
  (execSize_idle hs).trans (State.ifLife_neg (hl.trans_ne (by decide)))

theorem exec_wrpix_notReady {s : State} (hs : s.seq = .idle) (hl : s.life = .uninit) (c y x : Byte) :
    exec (.wrpix c y x) s = .next ((s.accept HostOp.wrpix c y x).respond 7#8 0#16 0#16) :=
  (execWrpix_idle hs).trans (State.ifLife_neg (hl.trans_ne (by decide)))

/-- Check (3): the color. -/
theorem writePixel_illegalColor {s : State} (hc : 3 ≤ s.color.toNat) :
    writePixel s = .next (s.respond 6#8 0#16 0#16) := by
  rw [writePixel, colorOfCode_eq_none_iff.2 hc, State.raise_illegalColorCode]

/-- Check (4): the coordinate. -/
theorem writePixel_outOfRange {s : State} (hc : s.color.toNat < 3) (hr : 152 ≤ s.x.toNat ∨ 152 ≤ s.y.toNat) :
    writePixel s = .next (s.respond 4#8 0#16 0#16) := by
  obtain ⟨col, hcol⟩ := Option.ne_none_iff_exists'.1 (mt colorOfCode_eq_none_iff.1 (Nat.not_le.2 hc))
  simp only [writePixel, hcol, outOfRange_eq_true.2 hr, if_true, State.raise_outOfRange]

/-- The operations the flag does not allow, by the code of the word (R218). -/
theorem notReadyFor_iff {w : Word} {s : State} :
    notReadyFor w s ↔ (opField w = HostOp.init ∧ s.life = .ready) ∨ (opField w ≠ HostOp.init ∧ s.life = .uninit) := by
  simp only [notReadyFor, ne_eq, opField_eq_iff]
  rfl

/-- Check (2): the lifecycle flag, on every word that decodes. -/
theorem exec_notReady {s : State} {w : Word} {i : Instr} (hs : s.seq = .idle) (hd : decodeHost w = .ok i)
    (hn : notReadyFor w s) : exec i s = .next ((s.latched w).respond 7#8 0#16 0#16) := by
  rw [notReadyFor_iff] at hn
  have huninit : opField w ≠ HostOp.init → s.life = .uninit := fun h => (hn.resolve_left fun hi => h hi.1).2
  rcases decodeHost_cases hd with ⟨ho, hz, rfl⟩ | ⟨ho, hz, rfl⟩ | ⟨ho, hz, rfl⟩ | ⟨ho, rfl⟩
  · have hready : s.life = .ready := (hn.resolve_right fun hi => hi.1 ho).2
    rw [exec_init_notReady hs hready, State.latched_of_reservedZero ho hz]
  · rw [exec_refresh_notReady hs (huninit (ho.trans_ne (by decide))), State.latched_of_reservedZero ho hz]
  · rw [exec_size_notReady hs (huninit (ho.trans_ne (by decide))), State.latched_of_reservedZero ho hz]
  · rw [exec_wrpix_notReady hs (huninit (ho.trans_ne (by decide))), State.latched, ho]

/-- A word with the code of WRPIX, taken by a ready block. -/
theorem step_wrpix_ready {s : State} {w : Word} {ws : List Word} (hr : s.resetPin = false) (hs : s.seq = .idle)
    (hw : s.hostWords = w :: ws) (ho : opField w = HostOp.wrpix) (hl : s.life = .ready) :
    step s = writePixel ((s.pop ws).latched w) := by
  have hd : decodeHost w = .ok (.wrpix (colorField w) (yField w) (xField w)) := by rw [decodeHost, if_pos ho]
  rw [step_word hr hs hw hd, exec_wrpix_ready (s := s.pop ws) hs hl, State.latched, ho]

/-! ### One response for each word -/

/-- What a step from `s` may answer; the dimensions only to the word of SIZE. -/
def PossibleResponse (s : State) (r : Response) : Prop :=
  r = ⟨0#8, 0#16, 0#16⟩ ∨ r = ⟨2#8, 0#16, 0#16⟩ ∨ r = ⟨4#8, 0#16, 0#16⟩ ∨ r = ⟨5#8, 0#16, 0#16⟩ ∨
    r = ⟨6#8, 0#16, 0#16⟩ ∨ r = ⟨7#8, 0#16, 0#16⟩ ∨
    (r = ⟨0#8, 152#16, 152#16⟩ ∧ s.seq = .idle ∧ s.hostWords.head? = some 0x04000000#32)

/-- A word that is taken is answered at once or starts an operation. -/
theorem WordOutcome.balance {w : Word} {s t : State} (h : WordOutcome w s t) (hs : s.seq = .idle) :
    t.responses.length + inFlight t.seq = s.responses.length + 1 := by
  cases h <;> subst t <;> simp [State.latched, State.painted, inFlight, hs]

theorem WordOutcome.response {w : Word} {ws : List Word} {s t : State} (h : WordOutcome w (s.pop ws) t)
    (hs : s.seq = .idle) (hw : s.hostWords = w :: ws) :
    t.responses = s.responses ∨ ∃ r, t.responses = s.responses ++ [r] ∧ PossibleResponse s r := by
  cases h with
  | refusal code hc ht =>
    refine .inr ⟨⟨code, 0#16, 0#16⟩, ht ▸ rfl, ?_⟩
    rcases hc with rfl | rfl | rfl | rfl <;> simp [PossibleResponse]
  | initStarts _ _ ht => exact .inl (ht ▸ rfl)
  | refreshStarts _ _ ht => exact .inl (ht ▸ rfl)
  | sizeAnswers ho hz _ ht =>
    have hword : w = 0x04000000#32 := (hostWord_of_reservedZero ho hz).symm
    exact .inr ⟨⟨0#8, 152#16, 152#16⟩, ht ▸ rfl, by simp [PossibleResponse, hs, hw, hword]⟩
  | pixel _ _ _ _ _ _ ht => exact .inr ⟨⟨0#8, 0#16, 0#16⟩, ht ▸ rfl, .inl rfl⟩

theorem StepOutcome.balance {s t : State} (h : StepOutcome s t) (hr : s.resetPin = false) :
    t.responses.length + inFlight t.seq + t.hostWords.length =
      s.responses.length + inFlight s.seq + s.hostWords.length := by
  cases h with
  | resets hr' => simp [hr] at hr'
  | takesWord w ws hs hw ho =>
    obtain ⟨_, _, _, _, hwords, _⟩ := ho.frame
    have hsum := ho.balance hs
    simp only [hwords, hs, hw, inFlight, List.length_cons, State.pop_hostWords, State.pop_responses] at hsum ⊢
    omega
  | actsInInit k e hs _ _ ht => simp [ht, inFlight, hs]
  | actsInRefresh k e hs _ _ ht => simp [ht, inFlight, hs]
  | _ hs => subst t; simp [inFlight, hs]

theorem StepOutcome.response {s t : State} (h : StepOutcome s t) (hr : s.resetPin = false) :
    t.responses = s.responses ∨ ∃ r, t.responses = s.responses ++ [r] ∧ PossibleResponse s r := by
  cases h with
  | resets hr' => simp [hr] at hr'
  | takesWord w ws hs hw ho => exact ho.response hs hw
  | endsInit _ ht => exact .inr ⟨⟨0#8, 0#16, 0#16⟩, ht ▸ rfl, .inl rfl⟩
  | samplesLow _ ht => exact .inr ⟨⟨0#8, 0#16, 0#16⟩, ht ▸ rfl, .inl rfl⟩
  | samplesFail _ ht => exact .inr ⟨⟨2#8, 0#16, 0#16⟩, ht ▸ rfl, .inr (.inl rfl)⟩
  | _ => subst t; exact .inl rfl

/-! ### What is written -/

/-- A write of `bytes` under the lines `cs` and `dc`: the panel is selected, and the bytes are an opcode or a payload as DC
says (R86). -/
def WriteFits (s : State) (cs dc : LineReg) (bytes : List Byte) : Prop :=
  cs = .driven .low ∧
    ((dc = .driven .low ∧ ∃ c ∈ opcodes, bytes = [c]) ∨
      (dc = .driven .high ∧ (bytes ∈ constantPayloads ∨ bytes = planeList s.black ∨ bytes = planeList s.red)))

/-- Every write of a list of events fits, with the lines at `cs` and `dc` before the list. -/
def WritesFit (s : State) : LineReg → LineReg → List Event → Prop
  | _, _, [] => True
  | cs, dc, e :: es =>
    (∀ bytes, e = .write bytes → WriteFits s cs dc bytes) ∧
      WritesFit s (lineAfter .cs cs [e]) (lineAfter .dc dc [e]) es

theorem WritesFit.getElem? {s : State} {cs dc : LineReg} {es : List Event} {k : Nat} {bytes : List Byte}
    (h : WritesFit s cs dc es) (hk : es[k]? = some (.write bytes)) :
    WriteFits s (lineAfter .cs cs (es.take k)) (lineAfter .dc dc (es.take k)) bytes := by
  induction es generalizing cs dc k with
  | nil => cases hk
  | cons e es ih =>
    obtain ⟨hfirst, hrest⟩ := h
    cases k with
    | zero => exact hfirst bytes (Option.some.inj hk)
    | succ k =>
      have hfits := ih hrest hk
      rw [← lineAfter_append, ← lineAfter_append] at hfits
      exact hfits

/-- In INIT every write is an opcode under DC low or a constant payload under DC high (R143). -/
theorem writesFit_initTable (s : State) : WritesFit s .notYetDriven .notYetDriven initTable := by
  simp [initTable, initTableLeft, initTableMiddle, initTableRight, WritesFit, WriteFits, lineAfter, opcodes,
    constantPayloads]

/-- In REFRESH every write is an opcode under DC low or a whole plane under DC high (R161). -/
theorem writesFit_refreshTable (s : State) (l : Level) :
    WritesFit s (.driven .high) (.driven l) (refreshTable s) := by
  simp [refreshTable, WritesFit, WriteFits, lineAfter, opcodes]

end Sys2Proof.Machine

namespace Sys2Proof.Claims

open Sys2Proof.Machine

/-- Settles O40, check by check. -/
theorem hostWordIsCheckedInOrder : Obligations.HostWordIsCheckedInOrder := by
  intro s w ws hr hs hw
  have hpixel : w.toNat / 2 ^ 24 = 2 → ¬ notReadyFor w s → step s = writePixel ((s.pop ws).latched w) := by
    intro ho hn
    have ho : opField w = HostOp.wrpix := opField_eq_iff.2 ho
    refine step_wrpix_ready hr hs hw ho ?_
    cases hl : s.life with
    | ready => rfl
    | uninit => exact absurd (notReadyFor_iff.2 (.inr ⟨ho.trans_ne (by decide), hl⟩)) hn
  refine ⟨fun hi => ?_, fun hi hn => ?_, fun ho hn hc => ?_, fun ho hn hc hxy => ?_⟩
  · rcases decodeHost_dichotomy w with ⟨hlegal, _⟩ | ⟨_, hd⟩
    · exact absurd hi hlegal
    · exact ⟨_, step_badWord hr hs hw hd, rfl⟩
  · rcases decodeHost_dichotomy w with ⟨_, i, hd⟩ | ⟨hillegal, _⟩
    · exact ⟨_, (step_word hr hs hw hd).trans (exec_notReady (s := s.pop ws) hs hd hn), rfl⟩
    · exact absurd hillegal hi
  · rw [← colorField_toNat] at hc
    exact ⟨_, (hpixel ho hn).trans (writePixel_illegalColor hc), rfl⟩
  · rw [← colorField_toNat] at hc
    rw [← xField_toNat, ← yField_toNat] at hxy
    exact ⟨_, (hpixel ho hn).trans (writePixel_outOfRange hc hxy.symm), rfl⟩

/-- Settles O42, by the outcomes of a step. -/
theorem eachAcceptedWordGetsOneResponse : Obligations.EachAcceptedWordGetsOneResponse :=
  fun _ _ hr ht => ⟨(step_outcome ht).balance hr, (step_outcome ht).response hr⟩

/-- Settles O46: a write is an event of a table at its place, and the lines there are those of the events before it. -/
theorem writesAreOpcodesAndTheirPayloads : Obligations.WritesAreOpcodesAndTheirPayloads := by
  intro s t bytes hinv hr ht hwrite
  have hlast : ∀ {e}, t.trace = s.trace ++ [e] → e = .write bytes := fun h => by simpa [h] using hwrite
  rcases (step_outcome ht).event hr with ⟨hs, htrace⟩ | ⟨e, htrace, ⟨k, hs, he⟩ | ⟨k, hs, he⟩ | ⟨hs, a, rfl⟩⟩
  · simp [htrace] at hwrite
  · have hline := hinv.inInit k hs
    have hcs : s.cs = _ := hline .cs
    have hdc : s.dc = _ := hline .dc
    rw [hlast htrace, initEvents_eq] at he
    rw [hcs, hdc]
    exact (writesFit_initTable s).getElem? he
  · obtain ⟨_, hcs, l, hdc⟩ := hinv.inRefresh k hs
    rw [hlast htrace, refreshEvents_eq] at he
    rw [hcs, hdc, refreshEvents_eq]
    exact (writesFit_refreshTable s l).getElem? he
  · cases hlast htrace

end Sys2Proof.Claims

/-! The panel commands one place at a time: the event that a command's envelope has at a place of its frame is the event of
the list there, so the command performs it. -/

namespace Sys2Proof.Machine

open Sys2Proof.Claims

/-- An event of a part of a list, by its place in the list. -/
theorem getElem?_of_drop_take {es fs : List Event} {a n j : Nat} {e : Event} (h : (es.drop a).take n = fs)
    (he : fs[j]? = some e) : j < n ∧ es[a + j]? = some e := by
  rw [← h, List.getElem?_take] at he
  obtain ⟨hj, he⟩ := Option.ite_none_right_eq_some.1 he
  exact ⟨hj, List.getElem?_drop ▸ he⟩

/-- At a place of its frame a panel command of INIT performs the event of the table (R95, R143). -/
theorem exec_init_event {s : State} {i : Instr} {k : Fin 51} {e : Event} (hs : s.seq = .init k)
    (hi : issuedAt i (.init k)) (he : initTable[k.val]? = some e) : exec i s = .next (initNext k (after e s)) := by
  obtain ⟨hexpands, _⟩ := operationsExpandToTheirCommands
  obtain ⟨hperforms, _⟩ := initPerformsItsActionList
  rw [← hexpands s i k hs (hs ▸ hi), hperforms s k e hs he]

/-- At a place of its frame a panel command of REFRESH performs the event of the table (R95, R161). -/
theorem exec_rfsh_event {s : State} {i : Instr} {k : Fin 16} {e : Event} (hs : s.seq = .rfsh k)
    (hi : issuedAt i (.rfsh k)) (he : (refreshTable s)[k.val]? = some e) :
    exec i s = .next (refreshNext k (after e s)) := by
  obtain ⟨_, hexpands⟩ := operationsExpandToTheirCommands
  obtain ⟨hperforms, _⟩ := refreshPerformsItsActionList
  rw [← hexpands s i k hs (hs ▸ hi), hperforms s k e hs he]

/-- The opcodes of INIT's commands decode to them (R87). -/
theorem decodePanel_of_mem_initCommands : ∀ row ∈ initCommands, decodePanel row.2.2.1 = .ok row.1 := by
  decide

/-- One of the three commands of REFRESH. -/
theorem mem_refreshCommands {s : State} {row : Instr × Nat × Byte × List Byte} :
    row ∈ refreshCommands s ↔ row = (.dataStart1, 0, 0x10#8, planeList s.black) ∨
      row = (.dataStart2, 6, 0x13#8, planeList s.red) ∨ row = (.displayRefresh, 12, 0x12#8, []) := by
  simp [refreshCommands]

/-- The opcodes of REFRESH's commands decode to them (R87). -/
theorem decodePanel_of_mem_refreshCommands {s : State} {row : Instr × Nat × Byte × List Byte}
    (h : row ∈ refreshCommands s) : decodePanel row.2.2.1 = .ok row.1 := by
  rcases mem_refreshCommands.1 h with rfl | rfl | rfl <;> rfl

/-- At the place of each command of REFRESH the table has its envelope, with the whole plane (R161). -/
theorem refreshTable_envelope {s : State} {row : Instr × Nat × Byte × List Byte} (h : row ∈ refreshCommands s) :
    ((refreshTable s).drop row.2.1).take (envelope row.2.2.1 row.2.2.2).length = envelope row.2.2.1 row.2.2.2 := by
  rcases mem_refreshCommands.1 h with rfl | rfl | rfl
  · rw [envelope_planeList]
    rfl
  · rw [envelope_planeList]
    rfl
  · rfl

theorem envelope_planeList_length (c : Byte) (m : Memory) : (envelope c (planeList m)).length = 6 :=
  congrArg List.length (envelope_planeList c m)

/-- The places of that envelope are the command's frame (R161). -/
theorem issuedAt_of_mem_refreshCommands {s : State} {row : Instr × Nat × Byte × List Byte}
    (h : row ∈ refreshCommands s) {j : Fin 16} (hfirst : row.2.1 ≤ j.val)
    (hlast : j.val < row.2.1 + (envelope row.2.2.1 row.2.2.2).length) : issuedAt row.1 (.rfsh j) := by
  rcases mem_refreshCommands.1 h with rfl | rfl | rfl
  · simp only [envelope_planeList_length] at hlast
    exact Nat.le_of_lt_succ hlast
  · simp only [envelope_planeList_length] at hlast
    exact ⟨hfirst, Nat.le_of_lt_succ hlast⟩
  · exact ⟨hfirst, Nat.le_of_lt_succ hlast⟩

end Sys2Proof.Machine

namespace Sys2Proof.Claims

open Sys2Proof.Machine

/-- Settles O27: the table of INIT has the envelope at the command's frame, and there the command performs the table. -/
theorem initCommandsPerformTheirEnvelopes : Obligations.InitCommandsPerformTheirEnvelopes := by
  refine fun row hrow => ⟨decodePanel_of_mem_initCommands row hrow, fun s k j e hs hk he => ?_⟩
  obtain ⟨hj, htable⟩ := getElem?_of_drop_take (initTable_envelope row hrow) he
  exact exec_init_event hs (issuedAt_of_mem_initCommands hrow (by omega) (by omega)) (hk ▸ htable)

/-- Settles O28: the table of REFRESH has the envelope at the command's frame, and there the command performs the table. -/
theorem refreshCommandsPerformTheirEnvelopes : Obligations.RefreshCommandsPerformTheirEnvelopes := by
  refine fun s row hrow => ⟨decodePanel_of_mem_refreshCommands hrow, fun k j e hs hk he => ?_⟩
  obtain ⟨hj, htable⟩ := getElem?_of_drop_take (refreshTable_envelope hrow) he
  exact exec_rfsh_event hs (issuedAt_of_mem_refreshCommands hrow (by omega) (by omega)) (hk ▸ htable)

end Sys2Proof.Claims

/-! What a receiver reads off a whole INIT: the commands of the table, and the delays between them. -/

namespace Sys2Proof.Machine

open Sys2Proof.Claims

/-- The transactions of R143's table are the eight commands, each with its opcode and payload, in their order (R146). -/
theorem transactions_initTable : transactions initTable = initCommands.map fun row => row.2.2 := by
  decide

/-- The delays of R143's table (R146). -/
theorem delays_initTable : delays initTable = [100, 100, 10] := by
  decide

end Sys2Proof.Machine

namespace Sys2Proof.Claims

open Sys2Proof.Machine

/-- Settles O18: a whole INIT appends the table, and the table is read command by command. -/
theorem initIssuesEightCommandsAndThreeDelays : Obligations.InitIssuesEightCommandsAndThreeDelays := by
  intro s ws hr hs hl hw
  refine ⟨_, wholeInitRuns s ws hr hs hl hw, rfl, ?_, delays_initTable⟩
  rw [transactions_initTable]
  rfl

end Sys2Proof.Claims

/-! The busy-wait: what a sample does under each answer and what a run of `high` answers does, and with them the end of
REFRESH; and that its events are those of the planes. -/

namespace Sys2Proof.Machine

open Sys2Proof.Claims

/-! ### One sample (R163) -/

theorem State.sampled_high (s : State) : s.sampled .high = s.performed [.busy .high] := rfl

theorem State.sampled_low (s : State) :
    s.sampled .low = ((s.performed [.busy .low]).respond 0#8 0#16 0#16).goto .idle := rfl

theorem State.sampled_fail (s : State) :
    s.sampled .fail = ((s.performed [.busy .fail]).respond 2#8 0#16 0#16).goto .halt := rfl

/-- Of the samples the block takes while it polls, only a `low` leaves it idle. -/
theorem State.sampled_seq_eq_idle_iff {s : State} {a : BusyAnswer} (hs : s.seq = .poll) :
    (s.sampled a).seq = .idle ↔ a = .low := by
  cases a with
  | high => simp [State.sampled_high, hs]
  | low => simp [State.sampled_low]
  | fail => simp [State.sampled_fail]

theorem exec_refresh_poll {s : State} (hs : s.seq = .poll) :
    exec .refresh s = .next (s.sampled (Config.busyAnswer s.draws)) := by
  simp [exec, execRefresh, hs]

/-! ### The answers of the environment (R7, R9) -/

theorem sampleAnswer_infallible_high (fails : Bool) : Config.sampleAnswer false fails .high = .high := rfl

theorem sampleAnswer_infallible_low (fails : Bool) : Config.sampleAnswer false fails .low = .low := rfl

theorem busyAnswer_ne_fail (h : Config.busyReadFallible = false) (n : Nat) : Config.busyAnswer n ≠ .fail := by
  rw [Config.busyAnswer, h]
  cases Config.busyLevel n with
  | high => simp [sampleAnswer_infallible_high]
  | low => simp [sampleAnswer_infallible_low]

/-! ### Many samples (R162) -/

theorem State.polled_cons {s : State} (hs : s.seq = .poll) (a : BusyAnswer) (rest : List BusyAnswer) :
    s.polled (a :: rest) = (s.sampled a).polled rest :=
  if_pos hs

/-- A block that does not poll uses no answer. -/
theorem State.polled_of_seq_ne {s : State} (hs : s.seq ≠ .poll) (answers : List BusyAnswer) :
    s.polled answers = s := by
  cases answers with
  | nil => rfl
  | cons a rest => exact if_neg hs

theorem State.performed_nil (s : State) : s.performed [] = s := by
  simp [State.performed, lineAfter]

/-- A run of `high` answers is used up sample by sample, and the block polls on. -/
theorem State.polled_high {s : State} (hs : s.seq = .poll) (n : Nat) (rest : List BusyAnswer) :
    s.polled (List.replicate n .high ++ rest) = (s.performed (List.replicate n (.busy .high))).polled rest := by
  induction n generalizing s with
  | zero =>
    rw [List.replicate_zero, List.replicate_zero, State.performed_nil]
    rfl
  | succ n ih =>
    have hpoll : (s.performed [.busy .high]).seq = .poll := hs
    calc s.polled (List.replicate (n + 1) .high ++ rest)
        = (s.performed [.busy .high]).polled (List.replicate n .high ++ rest) := State.polled_cons hs _ _
      _ = ((s.performed [.busy .high]).performed (List.replicate n (.busy .high))).polled rest := ih hpoll
      _ = (s.performed (List.replicate (n + 1) (.busy .high))).polled rest := by
        rw [State.performed_append]
        rfl

theorem lineAfter_replicate_busy (which : Line) (r : LineReg) (a : BusyAnswer) (n : Nat) :
    lineAfter which r (List.replicate n (.busy a)) = r := by
  induction n with
  | zero => rfl
  | succ n ih => exact ih

/-- Samples alone touch no line and draw one answer each. -/
theorem State.performed_replicate_busy (s : State) (a : BusyAnswer) (n : Nat) :
    s.performed (List.replicate n (.busy a)) =
      { s with draws := s.draws + n, trace := s.trace ++ List.replicate n (.busy a) } := by
  simp [State.performed, lineAfter_replicate_busy, List.countP_replicate, Event.drawsAnswer]

/-! ### The events of REFRESH and the planes (R165) -/

theorem planeList_congr {m m' : Memory} (h : ∀ a, a < 2888 → m.read a = m'.read a) : planeList m = planeList m' :=
  List.map_congr_left fun a ha => h a (List.mem_range.1 ha)

theorem refreshTable_congr {s t : State}
    (h : ∀ a, a < 2888 → s.black.read a = t.black.read a ∧ s.red.read a = t.red.read a) :
    refreshTable s = refreshTable t := by
  rw [refreshTable, refreshTable, planeList_congr fun a ha => (h a ha).1, planeList_congr fun a ha => (h a ha).2]

end Sys2Proof.Machine

namespace Sys2Proof.Claims

open Sys2Proof.Machine

/-- Settles O23: each clause is what a sample does under one answer, and the answers there are. -/
theorem oneBusySampleHasThreeOutcomes : Obligations.OneBusySampleHasThreeOutcomes := by
  refine ⟨fun s hs => exec_refresh_poll hs, fun s _ => s.sampled_high, fun s _ => s.sampled_low,
    fun s _ => s.sampled_fail, fun n => ?_, fun fails level => ?_⟩
  · cases h : Config.busyReadFallible with
    | true => exact .inl rfl
    | false => exact .inr (busyAnswer_ne_fail h n)
  · cases level with
    | high => exact sampleAnswer_infallible_high fails
    | low => exact sampleAnswer_infallible_low fails

/-- Settles O25: the run of `high` answers, with no answer after it. -/
theorem busyWaitHasNoTimeout : Obligations.BusyWaitHasNoTimeout := by
  intro s n hs
  calc s.polled (List.replicate n .high) = s.polled (List.replicate n .high ++ []) := by rw [List.append_nil]
    _ = s.performed (List.replicate n (.busy .high)) := State.polled_high hs n []
    _ = { s with draws := s.draws + n, trace := s.trace ++ List.replicate n (.busy .high) } :=
      s.performed_replicate_busy .high n

/-- Settles O24: after the run of `high` answers the block polls still, and after the `low` it polls no more. -/
theorem busyWaitEndsAtTheFirstLow : Obligations.BusyWaitEndsAtTheFirstLow := by
  intro s n later hs
  have hpoll : (s.performed (List.replicate n (.busy .high))).seq = .poll := hs
  rw [State.polled_high hs, State.polled_cons hpoll, State.polled_of_seq_ne (by simp [State.sampled_low]),
    State.performed_replicate_busy]
  rfl

/-- Settles O22: each block appends the table of its planes (O21), and planes that read the same have one table. -/
theorem refreshEventsDependOnlyOnThePlanes : Obligations.RefreshEventsDependOnlyOnThePlanes := by
  intro s₁ s₂ ws₁ ws₂ hr₁ hs₁ hl₁ hw₁ hr₂ hs₂ hl₂ hw₂ hplanes
  exact ⟨_, _, refreshTable s₁, wholeRefreshRunsToTheBusyWait s₁ ws₁ hr₁ hs₁ hl₁ hw₁,
    wholeRefreshRunsToTheBusyWait s₂ ws₂ hr₂ hs₂ hl₂ hw₂, rfl,
    congrArg _ (refreshTable_congr hplanes).symm, rfl, rfl, rfl⟩

/-- Settles O52: the sample was a `low`, and the invariant says what the trace was before it. -/
theorem answeredRefreshHasSentEverything : Obligations.AnsweredRefreshHasSentEverything := by
  intro s a hinv hs hidle
  obtain rfl := (State.sampled_seq_eq_idle_iff hs).1 hidle
  obtain ⟨earlier, n, htrace⟩ := hinv.polling hs
  rw [refreshEvents_eq] at htrace
  exact ⟨rfl, rfl, earlier, n, congrArg (· ++ [Event.busy .low]) htrace⟩

end Sys2Proof.Claims

/-! The pixel surface: the mapping of coordinates to the bits of a plane, and what WRPIX does to the two planes, read bit by
bit. Two canonical planes that agree in every bit are equal, so the laws of R188 and R190 are facts about single bits. -/

namespace Sys2Proof.Machine

open Sys2Proof.Claims

/-! ### The mapping of R183 -/

theorem byteIndex_eq (x y : Nat) : byteIndex x y = (152 * y + x) / 8 := rfl

theorem bitOffset_eq (x y : Nat) : bitOffset x y = 7 - (152 * y + x) % 8 := rfl

/-- Different in-range coordinates have different places in a plane. -/
theorem coordinates_eq_of_place_eq {x y x' y' : Nat} (hx : x < 152) (hx' : x' < 152)
    (hi : byteIndex x y = byteIndex x' y') (hk : bitOffset x y = bitOffset x' y') : x = x' ∧ y = y' := by
  rw [byteIndex_eq, byteIndex_eq] at hi
  rw [bitOffset_eq, bitOffset_eq] at hk
  omega

/-- Every place of a plane is some coordinate's: bit `k` of byte `i` is that of the pixel number `8 * i + (7 - k)`. -/
theorem exists_coordinates_of_place {i k : Nat} (hi : i < 2888) (hk : k < 8) :
    ∃ x y, x < 152 ∧ y < 152 ∧ byteIndex x y = i ∧ bitOffset x y = k := by
  refine ⟨(8 * i + (7 - k)) % 152, (8 * i + (7 - k)) / 152, Nat.mod_lt _ (by decide), by omega, ?_, ?_⟩
  · rw [byteIndex_eq, Nat.div_add_mod]
    omega
  · rw [bitOffset_eq, Nat.div_add_mod]
    omega

/-! ### Colors (R181, R83) -/

/-- Only the pair of a color decodes to it. -/
theorem bits_of_decodeColor {b r : BitVec 1} {c : Color} (h : decodeColor b r = .ok c) :
    b = blackBit c ∧ r = redBit c := by
  rcases BitVec.eq_zero_or_eq_one b with rfl | rfl <;> rcases BitVec.eq_zero_or_eq_one r with rfl | rfl
  · cases h
  all_goals
    cases h
    exact ⟨rfl, rfl⟩

theorem colorOfCode_codeOf (c : Color) : colorOfCode (codeOf c) = some c := by
  cases c <;> rfl

/-- A code that has a pair is a color's code, and the pair is that color's. -/
theorem exists_color_of_pairOfCode {code : Byte} {b r : BitVec 1} (h : pairOfCode code = some (b, r)) :
    ∃ c, code = codeOf c ∧ b = blackBit c ∧ r = redBit c := by
  unfold pairOfCode at h
  split_ifs at h with h0 h1 h2
  · cases h
    exact ⟨.white, BitVec.eq_of_toNat_eq h0, rfl, rfl⟩
  · cases h
    exact ⟨.black, BitVec.eq_of_toNat_eq h1, rfl, rfl⟩
  · cases h
    exact ⟨.red, BitVec.eq_of_toNat_eq h2, rfl, rfl⟩

/-! ### The pair of bits at a place of the planes -/

/-- The bit of the black plane and the bit of the red plane at one place. -/
def State.bitsAt (s : State) (i k : Nat) : BitVec 1 × BitVec 1 := (bitAt (s.black.read i) k, bitAt (s.red.read i) k)

/-- Bytes that agree in every bit are equal. -/
theorem eq_of_bitAt_eq {v w : Byte} (h : ∀ k, k < 8 → bitAt v k = bitAt w k) : v = w :=
  BitVec.eq_of_getLsbD_eq fun k hk => by simpa [bitAt] using congrArg (·.getLsbD 0) (h k hk)

/-- The eight pairs of bits at an address determine the bytes of the two planes there. -/
theorem State.reads_of_bitsAt {s : State} {a : Nat} {v w : Byte}
    (h : ∀ k, k < 8 → s.bitsAt a k = (bitAt v k, bitAt w k)) : s.black.read a = v ∧ s.red.read a = w :=
  ⟨eq_of_bitAt_eq fun k hk => congrArg Prod.fst (h k hk), eq_of_bitAt_eq fun k hk => congrArg Prod.snd (h k hk)⟩

/-- Canonical planes that agree in every bit are equal. -/
theorem State.planes_eq_of_bitsAt {s t : State} (hs : ReadyIdle s) (ht : ReadyIdle t)
    (h : ∀ i k, k < 8 → s.bitsAt i k = t.bitsAt i k) : s.black = t.black ∧ s.red = t.red :=
  ⟨Memory.eq_of_read_eq hs.blackWf ht.blackWf fun a _ => (State.reads_of_bitsAt (h a)).1,
    Memory.eq_of_read_eq hs.redWf ht.redWf fun a _ => (State.reads_of_bitsAt (h a)).2⟩

/-- On a blank surface every bit is one. -/
theorem State.bitsAt_blank {s : State} {i k : Nat} (hb : s.black = []) (hr : s.red = []) (hk : k < 8) :
    s.bitsAt i k = (1#1, 1#1) := by
  have hone : ∀ k, k < 8 → bitAt Config.blank k = 1#1 := by decide
  rw [State.bitsAt, hb, hr, Memory.read, hone k hk]

/-! ### A successful WRPIX -/

/-- The state after a successful WRPIX of the color `c` at an in-range `(x, y)`: the word accepted, the pixel painted. -/
def State.wrote (s : State) (c : Color) (x y : Byte) : State :=
  (s.accept HostOp.wrpix (codeOf c) y x).painted c x.toNat y.toNat

section Wrote

variable {s : State} (h : ReadyIdle s) (c : Color) {x y : Byte}
include h

theorem exec_wrpix_wrote (hx : x.toNat < 152) (hy : y.toNat < 152) :
    exec (.wrpix (codeOf c) y x) s = .next (s.wrote c x y) := by
  have hrange : outOfRange x y = false := outOfRange_eq_false.2 ⟨hx, hy⟩
  rw [exec_wrpix_ready h.idle h.ready, writePixel, State.accept_color, State.accept_x, State.accept_y,
    colorOfCode_codeOf, hrange]
  exact paint_painted hx hy

theorem State.wrote_readyIdle (hx : x.toNat < 152) (hy : y.toNat < 152) : ReadyIdle (s.wrote c x y) where
  idle := h.idle
  ready := h.ready
  blackWf := Memory.write_wfFrom (Nat.zero_le _) (byteIndex_lt hx hy) h.blackWf
  redWf := Memory.write_wfFrom (Nat.zero_le _) (byteIndex_lt hx hy) h.redWf

/-- The addressed byte of each plane (R184). -/
theorem State.wrote_read_same :
    (s.wrote c x y).black.read (byteIndex x.toNat y.toNat) =
      putBit (s.black.read (byteIndex x.toNat y.toNat)) (bitOffset x.toNat y.toNat) (blackBit c) ∧
    (s.wrote c x y).red.read (byteIndex x.toNat y.toNat) =
      putBit (s.red.read (byteIndex x.toNat y.toNat)) (bitOffset x.toNat y.toNat) (redBit c) :=
  ⟨(Memory.read_write h.blackWf).trans (if_pos rfl), (Memory.read_write h.redWf).trans (if_pos rfl)⟩

/-- Every other byte (R185). -/
theorem State.wrote_read_other (j : Nat) (hj : j ≠ byteIndex x.toNat y.toNat) :
    (s.wrote c x y).black.read j = s.black.read j ∧ (s.wrote c x y).red.read j = s.red.read j :=
  ⟨(Memory.read_write h.blackWf).trans (if_neg hj), (Memory.read_write h.redWf).trans (if_neg hj)⟩

theorem State.wrote_bitsAt (i k : Nat) :
    (s.wrote c x y).bitsAt i k =
      if i = byteIndex x.toNat y.toNat ∧ k = bitOffset x.toNat y.toNat then (blackBit c, redBit c)
      else s.bitsAt i k := by
  have hk := bitOffset_lt x.toNat y.toNat
  simp only [State.bitsAt, State.wrote, State.painted, State.respond_black, State.respond_red, State.accept_black,
    State.accept_red, bitAt_write_putBit h.blackWf hk, bitAt_write_putBit h.redWf hk]
  split <;> rfl

theorem State.wrote_pixelAt_same : (s.wrote c x y).pixelAt x.toNat y.toNat = .ok c :=
  (State.pixelAt_painted h.blackWf h.redWf _ _).trans (if_pos ⟨rfl, rfl⟩)

theorem State.wrote_pixelAt_other {x' y' : Nat} (hx : x.toNat < 152) (hx' : x' < 152)
    (hne : x' ≠ x.toNat ∨ y' ≠ y.toNat) : (s.wrote c x y).pixelAt x' y' = s.pixelAt x' y' := by
  refine (State.pixelAt_painted h.blackWf h.redWf x' y').trans (if_neg fun ⟨hi, hk⟩ => ?_)
  obtain ⟨rfl, rfl⟩ := coordinates_eq_of_place_eq hx' hx hi hk
  simp at hne

/-- The last color written to a pixel wins (R188). -/
theorem State.wrote_wrote_planes (c' : Color) (hx : x.toNat < 152) (hy : y.toNat < 152) :
    ((s.wrote c x y).wrote c' x y).black = (s.wrote c' x y).black ∧
    ((s.wrote c x y).wrote c' x y).red = (s.wrote c' x y).red := by
  have h₁ := State.wrote_readyIdle h c hx hy
  have h₂ := State.wrote_readyIdle h c' hx hy
  refine State.planes_eq_of_bitsAt (State.wrote_readyIdle h₁ c' hx hy) h₂ fun i k _ => ?_
  rw [State.wrote_bitsAt h₁, State.wrote_bitsAt h, State.wrote_bitsAt h]
  split <;> rfl

/-- Writes to different pixels commute (R188): no place is both pixels'. -/
theorem State.wrote_comm_planes (c' : Color) {x' y' : Byte} (hx : x.toNat < 152) (hy : y.toNat < 152)
    (hx' : x'.toNat < 152) (hy' : y'.toNat < 152) (hne : x ≠ x' ∨ y ≠ y') :
    ((s.wrote c x y).wrote c' x' y').black = ((s.wrote c' x' y').wrote c x y).black ∧
    ((s.wrote c x y).wrote c' x' y').red = ((s.wrote c' x' y').wrote c x y).red := by
  have h₁ := State.wrote_readyIdle h c hx hy
  have h₂ := State.wrote_readyIdle h c' hx' hy'
  refine State.planes_eq_of_bitsAt (State.wrote_readyIdle h₁ c' hx' hy') (State.wrote_readyIdle h₂ c hx hy)
    fun i k _ => ?_
  have hplace : ¬ ((i = byteIndex x.toNat y.toNat ∧ k = bitOffset x.toNat y.toNat) ∧
      (i = byteIndex x'.toNat y'.toNat ∧ k = bitOffset x'.toNat y'.toNat)) := fun ⟨⟨hi, hk⟩, hi', hk'⟩ => by
    obtain ⟨hxx, hyy⟩ := coordinates_eq_of_place_eq hx hx' (hi.symm.trans hi') (hk.symm.trans hk')
    exact hne.elim (· (BitVec.eq_of_toNat_eq hxx)) (· (BitVec.eq_of_toNat_eq hyy))
  rw [State.wrote_bitsAt h₁, State.wrote_bitsAt h, State.wrote_bitsAt h₂, State.wrote_bitsAt h]
  split_ifs with hp hq
  · exact absurd ⟨hq, hp⟩ hplace
  all_goals rfl

/-- White on a blank surface changes no plane (R188). -/
theorem State.wrote_white_blank (hb : s.black = []) (hr : s.red = []) (hx : x.toNat < 152) (hy : y.toNat < 152) :
    (s.wrote .white x y).black = [] ∧ (s.wrote .white x y).red = [] := by
  have hsame : (s.wrote .white x y).black = s.black ∧ (s.wrote .white x y).red = s.red :=
    State.planes_eq_of_bitsAt (State.wrote_readyIdle h .white hx hy) h fun i k hk => by
      rw [State.wrote_bitsAt h, State.bitsAt_blank hb hr hk]
      exact ite_self _
  rwa [hb, hr] at hsame

end Wrote

/-! ### Painting a list of coordinates (R190) -/

/-- Painting always completes, and a place that has the color before, or that some coordinate of the list has, has the
color after. -/
theorem exists_paintAll {s : State} (h : ReadyIdle s) (c : Color) {coords : List (Byte × Byte)}
    (hin : ∀ p ∈ coords, p.1.toNat < 152 ∧ p.2.toNat < 152) :
    ∃ t, paintAll (codeOf c) coords s = .next t ∧ ∀ i k,
      (s.bitsAt i k = (blackBit c, redBit c) ∨
        ∃ p ∈ coords, i = byteIndex p.1.toNat p.2.toNat ∧ k = bitOffset p.1.toNat p.2.toNat) →
      t.bitsAt i k = (blackBit c, redBit c) := by
  induction coords generalizing s with
  | nil => exact ⟨s, rfl, fun i k hp => hp.resolve_right (by simp)⟩
  | cons p rest ih =>
    obtain ⟨x, y⟩ := p
    obtain ⟨⟨hx, hy⟩, hrest⟩ := List.forall_mem_cons.1 hin
    obtain ⟨t, ht, hbits⟩ := ih (State.wrote_readyIdle h c hx hy) hrest
    refine ⟨t, by rw [paintAll, exec_wrpix_wrote h c hx hy]; exact ht, fun i k hp => hbits i k ?_⟩
    rw [State.wrote_bitsAt h]
    rcases hp with hcolored | ⟨p, hmem, hplace⟩
    · exact .inl (by rw [hcolored, ite_self])
    · rcases List.mem_cons.1 hmem with rfl | hmem
      · exact .inl (if_pos hplace)
      · exact .inr ⟨p, hmem, hplace⟩

/-- Painting every in-range coordinate gives every place of the planes the color. -/
theorem exists_paintAll_everywhere {s : State} (h : ReadyIdle s) (c : Color) {coords : List (Byte × Byte)}
    (hin : ∀ p ∈ coords, p.1.toNat < 152 ∧ p.2.toNat < 152)
    (hall : ∀ x y : Byte, x.toNat < 152 → y.toNat < 152 → (x, y) ∈ coords) :
    ∃ t, paintAll (codeOf c) coords s = .next t ∧
      ∀ a k, a < 2888 → k < 8 → t.bitsAt a k = (blackBit c, redBit c) := by
  obtain ⟨t, ht, hbits⟩ := exists_paintAll h c hin
  refine ⟨t, ht, fun a k ha hk => hbits a k (.inr ?_)⟩
  obtain ⟨x, y, hx, hy, hi, ho⟩ := exists_coordinates_of_place ha hk
  have hx8 : (BitVec.ofNat 8 x).toNat = x := Nat.mod_eq_of_lt (by omega)
  have hy8 : (BitVec.ofNat 8 y).toNat = y := Nat.mod_eq_of_lt (by omega)
  refine ⟨(BitVec.ofNat 8 x, BitVec.ofNat 8 y), hall _ _ (hx8.trans_lt hx) (hy8.trans_lt hy), ?_⟩
  rw [hx8, hy8]
  exact ⟨hi.symm, ho.symm⟩

/-! ### SIZE -/

theorem exec_size_ready {s : State} (hs : s.seq = .idle) (hl : s.life = .ready) :
    exec .size s = .next ((s.accept HostOp.size 0#8 0#8 0#8).respond 0#8 152#16 152#16) :=
  (execSize_idle hs).trans (State.ifLife_pos hl)

end Sys2Proof.Machine

namespace Sys2Proof.Claims

open Sys2Proof.Machine

/-- Settles O31: the refusals in the order of R220, then the plane updates read byte by byte. -/
theorem wrpixDoesWhatItsRuleSays : Obligations.WrpixDoesWhatItsRuleSays := by
  intro s c y x hs hb hr
  refine ⟨fun hl => ⟨_, exec_wrpix_notReady hs hl c y x, rfl⟩,
    fun hl hc => ⟨_, (exec_wrpix_ready hs hl c y x).trans (writePixel_illegalColor hc), rfl⟩,
    fun hl hc hout => ⟨_, (exec_wrpix_ready hs hl c y x).trans (writePixel_outOfRange hc hout), rfl⟩,
    fun b r hl hpair hx hy => ?_⟩
  have h : ReadyIdle s := ⟨hs, hl, hb, hr⟩
  obtain ⟨col, rfl, rfl, rfl⟩ := exists_color_of_pairOfCode hpair
  refine ⟨_, exec_wrpix_wrote h col hx hy, rfl, ?_⟩
  rintro _ _ rfl rfl
  obtain ⟨hblack, hred⟩ := State.wrote_read_same (x := x) (y := y) h col
  exact ⟨hblack, hred, State.wrote_read_other h col⟩

/-- Settles O33: the addressed bytes by the bits of `putBit`, every other byte by the plane updates, the pixels because
different coordinates have different places (O38). -/
theorem wrpixChangesOnePixelOnly : Obligations.WrpixChangesOnePixelOnly := by
  intro s col y x h hx hy
  refine ⟨_, exec_wrpix_wrote h col hx hy, ?_, State.wrote_pixelAt_same h col,
    fun x' y' hx' _ hne => State.wrote_pixelAt_other h col hx hx' hne⟩
  rintro _ _ rfl rfl
  have hk := bitOffset_lt x.toNat y.toNat
  obtain ⟨hblack, hred⟩ := State.wrote_read_same (x := x) (y := y) h col
  rw [← byteIndex_eq, ← bitOffset_eq, hblack, hred]
  exact ⟨(putBit_getLsbD hk).trans (if_pos rfl), (putBit_getLsbD hk).trans (if_pos rfl),
    fun m hm => ⟨(putBit_getLsbD hk).trans (if_neg hm), (putBit_getLsbD hk).trans (if_neg hm)⟩,
    State.wrote_read_other h col⟩

/-- Settles O34: the three laws of R188, each on the states that the writes leave. -/
theorem wrpixOverwritesAndCommutes : Obligations.WrpixOverwritesAndCommutes := by
  refine ⟨fun s c₁ c₂ y x h hx hy => ?_, fun s c₁ c₂ y₁ x₁ y₂ x₂ h hx₁ hy₁ hx₂ hy₂ hne => ?_,
    fun s y x h hb hr hx hy => ⟨_, exec_wrpix_wrote h .white hx hy, State.wrote_white_blank h hb hr hx hy⟩⟩
  · have h₁ := State.wrote_readyIdle h c₁ hx hy
    obtain ⟨hblack, hred⟩ := State.wrote_wrote_planes h c₁ c₂ hx hy
    exact ⟨_, _, _, exec_wrpix_wrote h c₁ hx hy, exec_wrpix_wrote h₁ c₂ hx hy, exec_wrpix_wrote h c₂ hx hy, hblack, hred,
      State.wrote_pixelAt_same h₁ c₂⟩
  · have h₁ := State.wrote_readyIdle h c₁ hx₁ hy₁
    have h₂ := State.wrote_readyIdle h c₂ hx₂ hy₂
    exact ⟨_, _, _, _, exec_wrpix_wrote h c₁ hx₁ hy₁, exec_wrpix_wrote h₁ c₂ hx₂ hy₂, exec_wrpix_wrote h c₂ hx₂ hy₂,
      exec_wrpix_wrote h₂ c₁ hx₁ hy₁, State.wrote_comm_planes h c₁ c₂ hx₁ hy₁ hx₂ hy₂ hne⟩

/-- Settles O35: every place has the color's pair, so a byte of a plane is eight times the same bit. -/
theorem fillingReconstructsTheImage : Obligations.FillingReconstructsTheImage := by
  intro s coords h _ _ hin hall
  have hblackByte : ∀ k, k < 8 → (blackBit .black, redBit .black) = (bitAt 0x00#8 k, bitAt 0xFF#8 k) := by decide
  have hredByte : ∀ k, k < 8 → (blackBit .red, redBit .red) = (bitAt 0xFF#8 k, bitAt 0x00#8 k) := by decide
  constructor
  · obtain ⟨t, ht, hbits⟩ := exists_paintAll_everywhere h .black hin hall
    exact ⟨t, ht, fun a ha => State.reads_of_bitsAt fun k hk => (hbits a k ha hk).trans (hblackByte k hk)⟩
  · obtain ⟨t, ht, hbits⟩ := exists_paintAll_everywhere h .red hin hall
    exact ⟨t, ht, fun a ha => State.reads_of_bitsAt fun k hk => (hbits a k ha hk).trans (hredByte k hk)⟩

/-- Settles O38: the short forms hold because a row is 19 whole bytes, the rest is the mapping's bijection. -/
theorem coordinatesMapOneToOneOntoPlaneBits : Obligations.CoordinatesMapOneToOneOntoPlaneBits := by
  refine ⟨fun x y hx hy => ?_, fun _ _ _ _ hx _ hx' _ => coordinates_eq_of_place_eq hx hx',
    fun _ _ => exists_coordinates_of_place⟩
  have hpixels : 152 * y + x < 23104 := by omega
  have hshortByte : (152 * y + x) / 8 = 19 * y + x / 8 := by omega
  have hshortBit : 7 - (152 * y + x) % 8 = 7 - x % 8 := by omega
  exact ⟨rfl, hpixels, rfl, rfl, rfl, hshortByte, hshortBit, byteIndex_lt hx hy, bitOffset_lt x y⟩

/-- Settles O36: the answer, and the refusal of R218. -/
theorem sizeAnswersTheFixedDimensions : Obligations.SizeAnswersTheFixedDimensions :=
  ⟨fun _ hs hl => ⟨_, exec_size_ready hs hl, rfl⟩, fun _ hs hl => ⟨_, exec_size_notReady hs hl, rfl⟩⟩

/-- Settles O37: (0, 0) is no color's pair because it does not decode. -/
theorem colorEncoderAndDecoderAgree : Obligations.ColorEncoderAndDecoderAgree := by
  refine ⟨rfl, rfl, rfl, fun c ⟨hb, hr⟩ => ?_, decodeColor_bits, fun _ _ _ => bits_of_decodeColor, rfl⟩
  have hdecodes := decodeColor_bits c
  rw [hb, hr] at hdecodes
  cases hdecodes

end Sys2Proof.Claims

/-! The halt after a failed busy sample: nothing the block is asked for goes on there, and the reset input leads out. -/

namespace Sys2Proof.Machine

open Sys2Proof.Claims

theorem not_issuedAt_halt (i : Instr) : ¬ issuedAt i .halt := by
  cases i <;> exact id

/-- A halted block refuses every instruction: a panel command because `HALT` lies in no frame (R89), a host operation
because none is accepted there (R29). -/
theorem exists_exec_halt_refused {s : State} (hs : s.seq = .halt) (i : Instr) : ∃ r, exec i s = .refused r := by
  have hbusy : s.seq ≠ .idle := hs.trans_ne (by decide)
  by_cases hi : i ∈ panelCommands
  · exact ⟨.notIssued, exec_notIssued hi (hs ▸ not_issuedAt_halt i)⟩
  · refine ⟨.notAccepted, ?_⟩
    cases i with
    | init => exact execInit_busy hbusy fun k => hs.trans_ne (by simp)
    | wrpix c y x => exact execWrpix_busy c y x hbusy
    | refresh => exact execRefresh_busy hbusy (fun k => hs.trans_ne (by simp)) (hs.trans_ne (by decide))
    | size => exact execSize_busy hbusy
    | _ => exact absurd (by simp [panelCommands]) hi

end Sys2Proof.Machine

namespace Sys2Proof.Claims

open Sys2Proof.Machine

/-- Settles O26: the failed sample ends in HALT with the reset input still low, where the block takes no step and refuses
every instruction; raised, that input makes the next step a block reset. -/
theorem busyReadFailureHaltsTheBlock : Obligations.BusyReadFailureHaltsTheBlock := by
  intro s _ hr
  have hhalt : (s.sampled .fail).seq = .halt := rfl
  have hlow : (s.sampled .fail).resetPin = false := hr
  refine ⟨s.sampled_fail, step_halt hlow hhalt, fun i t hnext => ?_, _, step_reset rfl, rfl, rfl⟩
  obtain ⟨r, hrefused⟩ := exists_exec_halt_refused hhalt i
  cases hnext.symm.trans hrefused

end Sys2Proof.Claims
